-- ==== Sys2Proof/Word.lean ====
section
/-! DEFINITION. The word types of PWLINK, with the widths of spec rule R9: wire bytes (8 bits), the kind tag (8 bits),
sequence numbers and CRC values (16 bits), host command words and status words (32 bits), and byte strings (R11). -/

namespace Sys2Proof

/-- One byte of the wire (R9). -/
abbrev Byte := BitVec 8

/-- A byte string (R11): position 0 is the first byte transmitted or received. -/
abbrev Bytes := List Byte

/-- A sequence number, 16 bits (R9). -/
abbrev Seq := BitVec 16

/-- A CRC value, 16 bits (R9, R200). -/
abbrev Crc := BitVec 16

/-- A request-kind tag, 8 bits (R9, R33). -/
abbrev Kind := BitVec 8

/-- A host command word, and a STATUS or RXCOUNT word, 32 bits (R9, R43, R44). -/
abbrev Word := BitVec 32

end Sys2Proof
end

