-- ==== Sys2Proof/Config.lean ====
section
/-! DEFINITION. What an implementation of PWLINK fixes (spec rules R8, R71; U10 to U12): the capacities, the kind of the
init commands PWLINK builds itself, and the platform's base address. The spec leaves each of them OPEN, 'model argument':
a `Params` is carried in the state, no transition changes it, and every statement holds for every value of it
(log entry 2). -/

namespace Sys2Proof

/-- A capacity of R8: `none` is the spec's INF. -/
abbrev Capacity := Option Nat

/-- The implementation parameters of R8. -/
structure Params where
  /-- `RX_DEPTH`: capacity of the receive buffer, in bytes (16 .. INF). -/
  rxDepth : Capacity
  /-- `Q_DEPTH`: capacity of the command FIFO, in descriptors (0 .. INF). -/
  qDepth : Capacity
  /-- `SEQ_DEPTH`: capacity of the sequence table, in entries (1 .. INF). -/
  seqDepth : Capacity
  /-- `MAX_PAYLOAD`: largest payload SUBMIT and CRC16 accept, in bytes (4 .. INF). -/
  maxPayload : Capacity
  /-- `INIT_KIND`: the kind tag of the init commands PWLINK builds itself. -/
  initKind : Kind
  deriving DecidableEq, Repr

/-- A capacity is at least `n`; INF is at least everything. -/
def Capacity.atLeast (n : Nat) : Capacity → Bool
  | none => true
  | some c => decide (n ≤ c)

/-- The ranges R8 gives the parameters. -/
def Params.legal (p : Params) : Bool :=
  Capacity.atLeast 16 p.rxDepth && Capacity.atLeast 1 p.seqDepth && Capacity.atLeast 4 p.maxPayload

/-- Every capacity INF and `INIT_KIND` 0: the values the spec's own vectors start from (95_test_vectors.md, 2.6), with
which no capacity fault can occur (R8). DESIGN CHOICE, log entry 2: `State.reset` holds these. -/
def Params.unbounded : Params :=
  { rxDepth := none, qDepth := none, seqDepth := none, maxPayload := none, initKind := 0 }

/-- `PWLINK_BASE` (R71, U12): the platform's address of the host interface. OPEN, and unused by every rule. -/
opaque Config.pwlinkBase : Nat

end Sys2Proof
end

