-- ==== Sys2Proof/Syntax.lean ====
section
/-! DEFINITION. The syntax of PWLINK: one constructor of `Instr` for each row of spec/opcode_table.json (the seven host
commands of R109, the thirteen received classes of R106 and R317, the outbound INIT and FRAME of R103 and R100, and the
four agent steps of R350), and the classes of `classify` (R303). -/

namespace Sys2Proof

/-- The state of a relay a switch acknowledgement reports (R303, R313). -/
inductive SwitchState where
  | on
  | off
  deriving DecidableEq, Repr

/-- The six terminal response opcodes (R106 rows 6 to 11). -/
inductive RespOp where
  /-- `0011`, init response. -/
  | init
  /-- `0013`, live power reading. -/
  | power
  /-- `0019`, circle-list entry. -/
  | circle
  /-- `0024`, status response. -/
  | status
  /-- `0027`, calibration response. -/
  | calib
  /-- `0049`, history block. -/
  | history
  deriving DecidableEq, Repr

/-- The value of `classify` (R303). -/
inductive RxClass where
  | ack (seq : Seq)
  | busy (seq : Seq)
  | error (seq : Seq) (code : Bytes)
  | switch (seq : Seq) (st : SwitchState) (addr : Bytes)
  | terminal (op : RespOp) (seq : Seq)
  | unrecognized
  deriving DecidableEq, Repr

/-- The instructions of PWLINK, one for each row of the opcode table. -/
inductive Instr where
  /-- RESET, host command 0x01 (R362). -/
  | reset
  /-- CONNECT, host command 0x02 (R253). -/
  | connect
  /-- SUBMIT, host command 0x03: KIND, CB and the data-port payload (R251). -/
  | submit (kind : Kind) (cb : Bool) (payload : Bytes)
  /-- PUMP, host command 0x04: TMO (R353). -/
  | pump (tmo : Bool)
  /-- STATUS, host command 0x05 (R360). -/
  | status
  /-- RXCOUNT, host command 0x06 (R361). -/
  | rxcount
  /-- CRC16, host command 0x07: the data-port bytes (R206). -/
  | crc16 (arg : Bytes)
  /-- ACK, received class 1 (R310). -/
  | ack (seq : Seq)
  /-- BUSY, received class 2 (R315). -/
  | busy (seq : Seq)
  /-- ERROR, received class 3: the four code characters (R312). -/
  | error (seq : Seq) (code : Bytes)
  /-- SWITCH_ON, received class 4: the sixteen address characters (R313). -/
  | switchOn (seq : Seq) (addr : Bytes)
  /-- SWITCH_OFF, received class 5 (R313). -/
  | switchOff (seq : Seq) (addr : Bytes)
  /-- RESP_INIT, received class 6: the sequence number and the whole verified payload (R314). -/
  | respInit (seq : Seq) (payload : Bytes)
  /-- RESP_POWER, received class 7 (R314). -/
  | respPower (seq : Seq) (payload : Bytes)
  /-- RESP_CIRCLE, received class 8 (R314). -/
  | respCircle (seq : Seq) (payload : Bytes)
  /-- RESP_STATUS, received class 9 (R314). -/
  | respStatus (seq : Seq) (payload : Bytes)
  /-- RESP_CALIB, received class 10 (R314). -/
  | respCalib (seq : Seq) (payload : Bytes)
  /-- RESP_HISTORY, received class 11 (R314). -/
  | respHistory (seq : Seq) (payload : Bytes)
  /-- UNRECOGNIZED, received class 12: the payload (R316). -/
  | unrecognized (payload : Bytes)
  /-- CRC_ERROR: an extracted body that does not verify (R317). -/
  | crcError (body : Bytes)
  /-- INIT, the outbound command PWLINK builds itself (R103, R254). -/
  | init
  /-- FRAME, one wire frame leaving PWLINK: its payload (R100, R151). -/
  | frame (payload : Bytes)
  /-- RX_DELIVER, transport step: one received byte (R365). -/
  | rxDeliver (b : Byte)
  /-- LINK_FAIL, transport step (R366). -/
  | linkFail
  /-- PSTEP, pump engine step (R354). -/
  | pstep
  /-- TIMEOUT, pump engine step (R355). -/
  | timeout
  deriving DecidableEq, Repr

end Sys2Proof
end

