-- ==== Sys2Proof/Machine/State.lean ====
section
/-! DEFINITION. The state of PWLINK (spec R30 to R42) as plain data, the events and results it gives, and the state after
reset (R46, R450, R451). Three fields are the model's own and no part of R30's tuple: `cfg`, the implementation parameters
(log entry 2); `sched`, the steps the agents take next (log entry 1); `replies`, the results the host's commands returned
(log entry 3). -/

namespace Sys2Proof.Machine

/-- A command descriptor (R33). -/
structure Descriptor where
  /-- Transmitted verbatim. -/
  payload : Bytes
  /-- The request-kind tag, opaque to PWLINK. -/
  kind : Kind
  /-- A Completion event is emitted when this command resolves. -/
  cb : Bool
  deriving DecidableEq, Repr

/-- An entry of the sequence table (R36). -/
structure SeqEntry where
  /-- The kind of the command in flight when the ACK came, none if there was none (D19). -/
  kind : Option Kind
  /-- True in every entry PWLINK creates; no rule reads it (N12, U17). -/
  receivedOk : Bool
  deriving DecidableEq, Repr

/-- The sequence table (R36), a finite map in one canonical form: keys strictly rising (log entry 8). -/
abbrev SeqTab := List (Seq × SeqEntry)

/-- The context of an active PUMP (R38). -/
structure PumpCtx where
  /-- The host gave the PUMP a timeout. -/
  tmo : Bool
  /-- The sequence number of the last ACK consumed in this PUMP. -/
  peek : Option Seq
  deriving DecidableEq, Repr

/-- The cause of a capacity fault (R39, R404). -/
inductive FaultCause where
  | rxOverflow
  | queueOverflow
  | seqOverflow
  | payloadTooLong
  deriving DecidableEq, Repr

/-- The status of a Completion (R40). -/
inductive CStatus where
  | ok
  | error
  deriving DecidableEq, Repr

/-- The value a PUMP returns (R357). -/
inductive PumpOutcome where
  | ack (seq : Seq)
  | reinit (seq : Seq)
  | error (seq : Seq) (code : Bytes) (cmd : Option Descriptor) (kind : Option Kind)
  | switched (seq : Seq) (st : SwitchState) (addr : Bytes) (kind : Option Kind)
  | response (op : Bytes) (seq : Seq) (kind : Option Kind) (payload : Bytes)
  | noData (payload : Bytes)
  | crcError (body : Bytes)
  /-- Timeout. -/
  | none
  | fatal
  | faulted
  deriving DecidableEq, Repr

/-- An event of the output trace (R40). -/
inductive Event where
  /-- One frame written to the transport (R255). -/
  | tx (frame : Bytes)
  /-- The completion callback (R257). -/
  | completion (d : Descriptor) (st : CStatus)
  /-- The value a PUMP returns (R356). -/
  | result (o : PumpOutcome)
  deriving DecidableEq, Repr

/-- The result code a host command returns (R363). -/
inductive HostResult where
  | ok
  /-- OK with the value of STATUS or RXCOUNT. -/
  | okWord (value : Word)
  /-- OK with the value and the text of CRC16 (R206). -/
  | okCrc (value : Crc) (text : Bytes)
  | illegal
  | fatal
  | faulted
  deriving DecidableEq, Repr

/-- The queue state (R37), a function of `inflight` and `fifo`. -/
inductive QState where
  | idle
  | writing
  | waitingQueued
  deriving DecidableEq, Repr

/-- A step of one of the agents of R350: which agent moves, and what it does. -/
inductive Action where
  /-- The host issues the command word `w` with the data-port bytes `arg` (R351). -/
  | host (w : Word) (arg : Bytes)
  /-- The transport delivers a byte (R365). -/
  | rx (b : Byte)
  /-- The transport fails (R366). -/
  | linkFail
  /-- The pump engine iterates (R354). -/
  | pstep
  /-- The active PUMP's deadline passes (R355). -/
  | timeout
  /-- The reset pin fires (R451); it is no instruction (log entry 11). -/
  | resetPin
  deriving DecidableEq, Repr

/-- The state: R30's tuple, and the model's three own fields. -/
structure State where
  /-- The receive buffer (R31). -/
  rxbuf : Bytes
  /-- The pending commands, oldest first (R32). -/
  fifo : List Descriptor
  /-- The command whose frame is on the wire (R34). -/
  inflight : Option Descriptor
  /-- The sequence-number table (R36). -/
  seqtab : SeqTab
  /-- The active PUMP command, if any (R38). -/
  pump : Option PumpCtx
  /-- Transport fatal, sticky (R39). -/
  fatal : Bool
  /-- Capacity fault, sticky (R39). -/
  fault : Option FaultCause
  /-- The output trace, append-only, oldest first (R40). -/
  out : List Event
  /-- The model's own: the results the host's commands returned, append-only, oldest first (R12, R363). -/
  replies : List HostResult
  /-- The model's own: the steps the agents take next, in order (R350). -/
  sched : List Action
  /-- The model's own: the implementation parameters (R8); no transition changes them. -/
  cfg : Params
  deriving DecidableEq, Repr

/-- Why no transition exists: the scheduled step is not enabled in the state (R350, R351), so no run of the spec takes it.
Each is SAFE: the model stops where the spec has no transition (log entry 4). None of them is an error PWLINK reports; those are result
codes, outcomes and sticky bits (R400). -/
inductive Fault where
  /-- Raised by a host command (and by an illegal word) while a PUMP is active: the host has no step then (R352). Safe. -/
  | hostBlocked
  /-- Raised by PSTEP where R350 does not enable it, and by a received class executed where no pump step is under way
  (no active PUMP, or `fault` or `fatal` set: R354 ends the step first). Safe. -/
  | pumpNotEnabled
  /-- Raised by TIMEOUT where R350 does not enable it. Safe. -/
  | timeoutNotEnabled
  /-- Raised by LINK_FAIL when `fatal` is already set (R350). Safe. -/
  | linkAlreadyFailed
  /-- Raised by INIT and FRAME while `fatal` or `fault` is set: PWLINK sends nothing then (R364, R367). Safe. -/
  | sendNotEnabled
  deriving DecidableEq, Repr

/-- No meaning for an instruction. -/
inductive Refusal where
  /-- Raised by an arm of `exec` that has no meaning yet; every arm has one. Safe. -/
  | notModelled (mnemonic : String)
  deriving DecidableEq, Repr

/-- The answer of a meaning. -/
abbrev Answer := Host.Outcome State Fault Refusal

/-- The state at power-on with the parameters `p`: R46's values, an empty trace (R451), nothing scheduled. -/
def State.resetWith (p : Params) : State :=
  { rxbuf := [], fifo := [], inflight := none, seqtab := [], pump := none, fatal := false, fault := none, out := [],
    replies := [], sched := [], cfg := p }

/-- The state right after reset. The parameters, which the spec leaves OPEN, are the spec's own vectors' (DESIGN CHOICE,
log entry 2); no statement rests on them. -/
def State.reset : State := State.resetWith Params.unbounded

end Sys2Proof.Machine
end

