-- ==== Sys2Proof/Machine/Flags.lean ====
section
/-! DEFINITION. The flags of PWLINK and the words the host reads them in: `awaiting_response` (spec R34), the queue state
(R37), STATUS (R43) and RXCOUNT (R44). -/

namespace Sys2Proof.Machine

/-- `awaiting_response` (R34). -/
def awaiting (s : State) : Bool := s.inflight.isSome

/-- The queue state (R37). -/
def qstate (s : State) : QState :=
  match s.inflight, s.fifo with
  | none, _ => .idle
  | some _, [] => .writing
  | some _, _ :: _ => .waitingQueued

/-- QSTATE (R43); 3 never occurs. -/
def qstateBits : QState → BitVec 2
  | .idle => 0
  | .writing => 1
  | .waitingQueued => 2

/-- FAULT_CAUSE (R43); 5 to 7 never occur. -/
def faultCauseBits : Option FaultCause → BitVec 3
  | none => 0
  | some .rxOverflow => 1
  | some .queueOverflow => 2
  | some .seqOverflow => 3
  | some .payloadTooLong => 4

/-- A count that saturates at 255 (R43). -/
def count8 (n : Nat) : BitVec 8 := BitVec.ofNat 8 (min n 255)

/-- The STATUS word (R43): reserved, SEQ_COUNT, FIFO_COUNT, FAULT_CAUSE, FAULT, FATAL, AWAITING, QSTATE. -/
def statusWord (s : State) : Word :=
  (0#8 ++ count8 s.seqtab.length ++ count8 s.fifo.length ++ faultCauseBits s.fault ++ BitVec.ofBool s.fault.isSome ++
    BitVec.ofBool s.fatal ++ BitVec.ofBool (awaiting s) ++ qstateBits (qstate s) : BitVec 32)

/-- The RXCOUNT word (R44), which saturates at 2^32 - 1. -/
def rxcountWord (s : State) : Word := BitVec.ofNat 32 (min s.rxbuf.length (2 ^ 32 - 1))

end Sys2Proof.Machine
end

