-- ==== Sys2Proof/Machine/Text.lean ====
section
/-! DEFINITION. Byte strings and their characters (spec R11, R13, R74): slices, the classes HEXU, HEXANY and WORD, the
four-digit hex rendering `hex4` (R203) and the four-digit hex reading `hexval4` (R301). -/

namespace Sys2Proof

/-- The half-open slice `s[i..j)` of R11, empty when `j ≤ i`. -/
def slice (s : Bytes) (i j : Nat) : Bytes := (s.drop i).take (j - i)

/-- The ASCII bytes of a quoted character string (R11). -/
def ascii (cs : List Char) : Bytes := cs.map fun c => BitVec.ofNat 8 c.toNat

/-- A byte lies between two bounds, both included. -/
def byteBetween (lo hi : Nat) (b : Byte) : Bool := decide (lo ≤ b.toNat) && decide (b.toNat ≤ hi)

/-- HEXU: `0`-`9` and `A`-`F` (R13). -/
def isHexU (b : Byte) : Bool := byteBetween 0x30 0x39 b || byteBetween 0x41 0x46 b

/-- HEXANY: HEXU and `a`-`f` (R13). -/
def isHexAny (b : Byte) : Bool := isHexU b || byteBetween 0x61 0x66 b

/-- WORD: `0`-`9`, `A`-`Z`, `a`-`z` and `_` (R13, D9). -/
def isWord (b : Byte) : Bool :=
  byteBetween 0x30 0x39 b || byteBetween 0x41 0x5A b || byteBetween 0x61 0x7A b || b == 0x5F

/-- `H(n)` of R203: one uppercase hex digit. -/
def hexDigit (n : BitVec 4) : Byte :=
  if n.toNat ≤ 9 then BitVec.ofNat 8 (0x30 + n.toNat) else BitVec.ofNat 8 (0x41 + (n.toNat - 10))

/-- `hex4(v)` of R203: four uppercase hex characters, most significant nibble first. -/
def hex4 (v : BitVec 16) : Bytes :=
  [hexDigit (v.extractLsb' 12 4), hexDigit (v.extractLsb' 8 4), hexDigit (v.extractLsb' 4 4),
   hexDigit (v.extractLsb' 0 4)]

/-- `D(ch)` of R301: the value of a hex digit of either case. -/
def hexDigitValue (b : Byte) : Nat :=
  if b.toNat ≤ 0x39 then b.toNat - 0x30
  else if b.toNat ≤ 0x46 then b.toNat - 0x41 + 10
  else b.toNat - 0x61 + 10

/-- `hexval4(s)` of R301: four hex digits of either case, big-endian (D15). -/
def hexval4 : Bytes → Option Seq
  | [a, b, c, d] =>
    if isHexAny a && isHexAny b && isHexAny c && isHexAny d then
      some (BitVec.ofNat 16 (16 ^ 3 * hexDigitValue a + 16 ^ 2 * hexDigitValue b + 16 * hexDigitValue c
        + hexDigitValue d))
    else none
  | _ => none

end Sys2Proof
end

