-- ==== Sys2Proof/Machine/Classify.lean ====
section
/-! DEFINITION. The response classifier: the opcode literals, `classify` (spec R303) with the field positions of R105 and
R302, and the class table of R106 as a list of patterns. -/

namespace Sys2Proof

/-- The literal `0000`, the opcode of rows 1 to 5 (R106). -/
def opGeneric : Bytes := ascii ['0', '0', '0', '0']

/-- The secondary code of an ACK (R106 row 1). -/
def codeAck : Bytes := ascii ['0', '0', 'C', '1']

/-- The secondary code of a BUSY (R106 row 2). -/
def codeBusy : Bytes := ascii ['0', '0', 'C', '2']

/-- The secondary code of a SWITCH_ON (R106 row 4). -/
def codeOn : Bytes := ascii ['0', '0', 'D', '8']

/-- The secondary code of a SWITCH_OFF (R106 row 5). -/
def codeOff : Bytes := ascii ['0', '0', 'D', 'E']

/-- The opcode characters of a terminal response (R106 rows 6 to 11). -/
def respOpText : RespOp → Bytes
  | .init => ascii ['0', '0', '1', '1']
  | .power => ascii ['0', '0', '1', '3']
  | .circle => ascii ['0', '0', '1', '9']
  | .status => ascii ['0', '0', '2', '4']
  | .calib => ascii ['0', '0', '2', '7']
  | .history => ascii ['0', '0', '4', '9']

/-- The terminal opcode that four characters spell, if they spell one (R303). -/
def respOpOf (op : Bytes) : Option RespOp :=
  if op = respOpText .init then some .init
  else if op = respOpText .power then some .power
  else if op = respOpText .circle then some .circle
  else if op = respOpText .status then some .status
  else if op = respOpText .calib then some .calib
  else if op = respOpText .history then some .history
  else none

/-- The opcode field p[0..4) (R302). -/
def opField (p : Bytes) : Bytes := slice p 0 4

/-- The sequence-number field p[4..8) (R302). -/
def seqField (p : Bytes) : Bytes := slice p 4 8

/-- The secondary-code field p[8..12) (R302). -/
def codeField (p : Bytes) : Bytes := slice p 8 12

/-- The address field p[12..28) (R302). -/
def addrField (p : Bytes) : Bytes := slice p 12 28

/-- The `0000` branch of R303, told apart by the payload's length (conflict C5, D13). -/
def classifyGeneric (p : Bytes) (s : Seq) : RxClass :=
  if p.length = 12 then
    if codeField p = codeAck then .ack s
    else if codeField p = codeBusy then .busy s
    else .error s (codeField p)
  else if p.length = 28 ∧ codeField p = codeOn then .switch s .on (addrField p)
  else if p.length = 28 ∧ codeField p = codeOff then .switch s .off (addrField p)
  else .unrecognized

/-- `classify(p)` of R303. -/
def classify (p : Bytes) : RxClass :=
  if p.length < 8 then .unrecognized
  else
    match hexval4 (seqField p) with
    | none => .unrecognized
    | some s =>
      if opField p = opGeneric then classifyGeneric p s
      else
        match respOpOf (opField p) with
        | some op => .terminal op s
        | none => .unrecognized

/-- One character of a pattern of R106: a literal byte, `S` (a HEXANY character) or `A` and `E` (any WORD character). -/
inductive PatChar where
  | lit (b : Byte)
  | hex
  | word
  deriving DecidableEq, Repr

/-- A byte fits a pattern character. -/
def PatChar.fits : PatChar → Byte → Bool
  | .lit c, b => b == c
  | .hex, b => isHexAny b
  | .word, b => isWord b

/-- A row of R106: the characters, and whether `*` (zero or more WORD characters) follows them. -/
structure Pattern where
  chars : List PatChar
  star : Bool
  deriving DecidableEq, Repr

/-- The characters of a pattern against a payload, in order; what is left over is empty, or WORD under a `*`. -/
def fitsChars (star : Bool) : List PatChar → Bytes → Bool
  | [], p => if star then p.all isWord else p.isEmpty
  | _ :: _, [] => false
  | c :: cs, b :: p => c.fits b && fitsChars star cs p

/-- The payload has the row's pattern. -/
def Pattern.fits (pat : Pattern) (p : Bytes) : Bool := fitsChars pat.star pat.chars p

/-- The row numbers of R106. -/
inductive ClassRow where
  | ack
  | busy
  | error
  | switchOn
  | switchOff
  | resp (op : RespOp)
  | unrecognized
  deriving DecidableEq, Repr

/-- The literal characters of a pattern. -/
def litPat (bs : Bytes) : List PatChar := bs.map .lit

/-- `0000SSSS` followed by a secondary code. -/
def genericPat (code : List PatChar) : List PatChar := litPat opGeneric ++ List.replicate 4 .hex ++ code

/-- A terminal row: the opcode, `SSSS`, and `*`. -/
def respPat (op : RespOp) : Pattern := { chars := litPat (respOpText op) ++ List.replicate 4 .hex, star := true }

/-- The class table of R106, rows 1 to 11, in the order they are tested. Row 3's exclusion of the codes `00C1` and `00C2`
follows from its place after rows 1 and 2. -/
def classTable : List (ClassRow × Pattern) :=
  [ (.ack, { chars := genericPat (litPat codeAck), star := false }),
    (.busy, { chars := genericPat (litPat codeBusy), star := false }),
    (.error, { chars := genericPat (List.replicate 4 .word), star := false }),
    (.switchOn, { chars := genericPat (litPat codeOn ++ List.replicate 16 .word), star := false }),
    (.switchOff, { chars := genericPat (litPat codeOff ++ List.replicate 16 .word), star := false }),
    (.resp .init, respPat .init),
    (.resp .power, respPat .power),
    (.resp .circle, respPat .circle),
    (.resp .status, respPat .status),
    (.resp .calib, respPat .calib),
    (.resp .history, respPat .history) ]

/-- The first row of a list of rows that fits, row 12 (UNRECOGNIZED) if none does. -/
def firstRow (p : Bytes) : List (ClassRow × Pattern) → ClassRow
  | [] => .unrecognized
  | r :: rs => if r.2.fits p then r.1 else firstRow p rs

/-- The row of R106 a payload falls under: the first match wins. -/
def tableRow (p : Bytes) : ClassRow := firstRow p classTable

/-- The row of R106 a class belongs to. -/
def RxClass.row : RxClass → ClassRow
  | .ack _ => .ack
  | .busy _ => .busy
  | .error _ _ => .error
  | .switch _ .on _ => .switchOn
  | .switch _ .off _ => .switchOff
  | .terminal op _ => .resp op
  | .unrecognized => .unrecognized

end Sys2Proof
end

