-- ==== Sys2Proof/Machine/Checksum.lean ====
section
/-! DEFINITION. The CRC-16 checksum generator (spec R200 to R202): polynomial 0x1021, initial value 0, no reflection, no
final XOR, each byte most-significant bit first. -/

namespace Sys2Proof

/-- One shift of the CRC register (R202). -/
def crcShift (c : Crc) : Crc := if c.getLsbD 15 then (c <<< 1) ^^^ 0x1021 else c <<< 1

/-- `n` shifts of the CRC register. -/
def crcShifts : Nat → Crc → Crc
  | 0, c => c
  | n + 1, c => crcShifts n (crcShift c)

/-- `crc_step(c, b)` of R202: one byte, which lands in bits 15 to 8. -/
def crcStep (c : Crc) (b : Byte) : Crc := crcShifts 8 (c ^^^ (b.setWidth 16 <<< 8))

/-- `crc16(s)` of R201. -/
def crc16 (s : Bytes) : Crc := s.foldl crcStep 0

end Sys2Proof
end

