-- ==== Sys2Proof/Machine/Codec.lean ====
section
/-! DEFINITION. The frame codec (spec R100, R101, R150 to R160): the encoder, the delimiter scanner and extractor, and the
checksum verification of an extracted body. -/

namespace Sys2Proof

/-- `PREAMBLE` (R150). -/
def preamble : Bytes := [0x05, 0x05, 0x03, 0x03]

/-- `TERM` (R150): CR LF. -/
def term : Bytes := [0x0D, 0x0A]

/-- A payload followed by its checksum: the body of the frame that carries it (R100). -/
def bodyOf (p : Bytes) : Bytes := p ++ hex4 (crc16 p)

/-- `encode(p)` of R151: the frame of a payload, which is sent verbatim (D28). -/
def encodeFrame (p : Bytes) : Bytes := preamble ++ (bodyOf p ++ term)

/-- The length of the WORD run that follows a preamble at the start of `b`. -/
def wordRun (b : Bytes) : Nat := ((b.drop 4).takeWhile isWord).length

/-- `b` has a match at position 0 (R153): the preamble, one or more WORD bytes, the terminator. -/
def matchesHere (b : Bytes) : Bool :=
  b.take 4 == preamble && decide (0 < wordRun b) && (b.drop (4 + wordRun b)).take 2 == term

/-- `first_match(b)` of R154: the match (i, j) with the smallest i. -/
def firstMatch : Bytes → Option (Nat × Nat)
  | [] => none
  | x :: t =>
    if matchesHere (x :: t) then some (0, 4 + wordRun (x :: t))
    else (firstMatch t).map fun ij => (ij.1 + 1, ij.2 + 1)

/-- `extract_one(b)` of R155: the body of the leftmost match and the bytes after its terminator; everything before the
match goes with it (R156, conflict C2). -/
def extractOne (b : Bytes) : Option (Bytes × Bytes) :=
  match firstMatch b with
  | none => none
  | some (i, j) => some (slice b (i + 4) j, b.drop (j + 2))

/-- `verify(body)` of R159 and R160: the payload, if the last four characters are its checksum, byte for byte (D8, D12). -/
def verify (body : Bytes) : Option Bytes :=
  if body.length < 4 then none
  else if hex4 (crc16 (body.take (body.length - 4))) = body.drop (body.length - 4) then
    some (body.take (body.length - 4))
  else none

/-- R153 as a proposition: (i, j) is a frame match in `b`. -/
def IsFrameMatch (b : Bytes) (i j : Nat) : Prop :=
  i + 4 < j ∧ slice b i (i + 4) = preamble ∧ (∀ x ∈ slice b (i + 4) j, isWord x = true) ∧ j + 2 ≤ b.length ∧
    slice b j (j + 2) = term

end Sys2Proof
end

