-- ==== Sys2Proof/WellFormed.lean ====
section
/-! DEFINITION. The well-formed instructions: those whose operands an encoding of spec/opcode_table.json can carry. A host
command's fields fill their bits, so each is well formed; a received class carries the characters its pattern of R106
admits; an outbound frame carries any payload (R151, D28; log entry 12). -/

namespace Sys2Proof

/-- The operands of a terminal row (R106 rows 6 to 11): a payload of WORD characters, of length 8 or more, with the row's
opcode and the sequence number in hex digits of either case. -/
def respWf (op : RespOp) (seq : Seq) (p : Bytes) : Bool :=
  p.all isWord && decide (8 ≤ p.length) && opField p == respOpText op && hexval4 (seqField p) == some seq

/-- The code of an ERROR (R106 row 3): four WORD characters other than `00C1` and `00C2`. -/
def errorCodeWf (code : Bytes) : Bool :=
  decide (code.length = 4) && code.all isWord && code != codeAck && code != codeBusy

/-- The address of a switch acknowledgement (R106 rows 4 and 5): sixteen WORD characters. -/
def addrWf (addr : Bytes) : Bool := decide (addr.length = 16) && addr.all isWord

/-- An UNRECOGNIZED payload (R106 row 12, R107): WORD characters that fit no other row. -/
def unrecognizedWf (p : Bytes) : Bool := p.all isWord && tableRow p == .unrecognized

/-- A CRC_ERROR body (R101, R317): one or more WORD characters that do not verify. -/
def crcErrorWf (body : Bytes) : Bool := !body.isEmpty && body.all isWord && verify body == none

/-- The instruction's operands are ones its encoding admits. -/
def Instr.wf : Instr → Bool
  | .reset => true
  | .connect => true
  | .submit _ _ _ => true
  | .pump _ => true
  | .status => true
  | .rxcount => true
  | .crc16 _ => true
  | .ack _ => true
  | .busy _ => true
  | .error _ code => errorCodeWf code
  | .switchOn _ addr => addrWf addr
  | .switchOff _ addr => addrWf addr
  | .respInit seq p => respWf .init seq p
  | .respPower seq p => respWf .power seq p
  | .respCircle seq p => respWf .circle seq p
  | .respStatus seq p => respWf .status seq p
  | .respCalib seq p => respWf .calib seq p
  | .respHistory seq p => respWf .history seq p
  | .unrecognized p => unrecognizedWf p
  | .crcError body => crcErrorWf body
  | .init => true
  | .frame _ => true
  | .rxDeliver _ => true
  | .linkFail => true
  | .pstep => true
  | .timeout => true

end Sys2Proof
end

