-- ==== Sys2Proof/Decode.lean ====
section
/-! DEFINITION. The decoder of PWLINK's three encodings (spec 30_encoding.md) and of the agents' steps, total on any input
and rejecting by name, and after it the encoder. A host command is a word W with its data-port argument (R108 to R112); a
received frame is decoded from its extracted body (R101, R106, R159, R358); PWLINK's own payload is INIT (R103); a wire
frame is read back to its payload (R100). -/

namespace Sys2Proof

/-- What an instruction is decoded from: the words or characters of the encoding it has, or the step an agent takes. -/
inductive Code where
  /-- A host command word and the bytes on the data port (R108). -/
  | host (w : Word) (arg : Bytes)
  /-- The body of an extracted frame (R101). -/
  | body (b : Bytes)
  /-- A payload PWLINK builds itself (R103). -/
  | txPayload (p : Bytes)
  /-- A frame on the wire (R100). -/
  | wire (f : Bytes)
  /-- The transport delivers a byte (R365). -/
  | rxStep (b : Byte)
  /-- The transport fails (R366). -/
  | linkFailStep
  /-- The pump engine iterates (R354). -/
  | pumpStep
  /-- The PUMP's deadline passes (R355). -/
  | timeoutStep
  deriving DecidableEq, Repr

/-- Why a code is no instruction. -/
inductive Reject where
  /-- The command word matches no row of R109: PWLINK answers ILLEGAL (R111, R401). -/
  | illegalWord
  /-- The payload is not the one payload PWLINK builds itself (R103). -/
  | notInit
  /-- The bytes are not a preamble, a payload, its checksum and a terminator (R100). -/
  | notFrame
  deriving DecidableEq, Repr

/-- What the decoder answers. -/
inductive Decoded where
  | ok (i : Instr)
  | reject (r : Reject)
  deriving DecidableEq, Repr

/-- KIND, bits 15 to 8 of a command word (R108). -/
def kindField (w : Word) : Kind := w.extractLsb' 8 8

/-- CB, bit 16 of a command word (R108). -/
def cbField (w : Word) : Bool := w.getLsbD 16

/-- TMO, bit 17 of a command word (R108). -/
def tmoField (w : Word) : Bool := w.getLsbD 17

/-- A match and mask pair of R109. -/
structure HostRow where
  pattern : Word
  mask : Word
  deriving DecidableEq, Repr

/-- A word matches a row when `(W & mask) = match` (R109). -/
def HostRow.fits (r : HostRow) (w : Word) : Bool := w &&& r.mask == r.pattern

/-- RESET (R109). -/
def rowReset : HostRow := { pattern := 0x00000001, mask := 0xFFFFFFFF }
/-- CONNECT (R109). -/
def rowConnect : HostRow := { pattern := 0x00000002, mask := 0xFFFFFFFF }
/-- SUBMIT (R109): KIND and CB are free. -/
def rowSubmit : HostRow := { pattern := 0x00000003, mask := 0xFFFE00FF }
/-- PUMP (R109): TMO is free. -/
def rowPump : HostRow := { pattern := 0x00000004, mask := 0xFFFDFFFF }
/-- STATUS (R109). -/
def rowStatus : HostRow := { pattern := 0x00000005, mask := 0xFFFFFFFF }
/-- RXCOUNT (R109). -/
def rowRxcount : HostRow := { pattern := 0x00000006, mask := 0xFFFFFFFF }
/-- CRC16 (R109). -/
def rowCrc16 : HostRow := { pattern := 0x00000007, mask := 0xFFFFFFFF }

/-- The rows of R109. -/
def hostRows : List HostRow :=
  [rowReset, rowConnect, rowSubmit, rowPump, rowStatus, rowRxcount, rowCrc16]

/-- Host command decode (R109 to R111, R351). Only SUBMIT and CRC16 take the data-port argument; the others
ignore it (log entry 10). -/
def decodeHost (w : Word) (arg : Bytes) : Decoded :=
  if rowReset.fits w then .ok .reset
  else if rowConnect.fits w then .ok .connect
  else if rowSubmit.fits w then .ok (.submit (kindField w) (cbField w) arg)
  else if rowPump.fits w then .ok (.pump (tmoField w))
  else if rowStatus.fits w then .ok .status
  else if rowRxcount.fits w then .ok .rxcount
  else if rowCrc16.fits w then .ok (.crc16 arg)
  else .reject .illegalWord

/-- The instruction a class of R303 stands for, on the verified payload `p`. -/
def RxClass.toInstr (p : Bytes) : RxClass → Instr
  | .ack s => .ack s
  | .busy s => .busy s
  | .error s code => .error s code
  | .switch s .on addr => .switchOn s addr
  | .switch s .off addr => .switchOff s addr
  | .terminal .init s => .respInit s p
  | .terminal .power s => .respPower s p
  | .terminal .circle s => .respCircle s p
  | .terminal .status s => .respStatus s p
  | .terminal .calib s => .respCalib s p
  | .terminal .history s => .respHistory s p
  | .unrecognized => .unrecognized p

/-- An extracted body: a CRC_ERROR if it does not verify, else the class of its payload (R358, R405). -/
def decodeBody (body : Bytes) : Instr :=
  match verify body with
  | none => .crcError body
  | some p => (classify p).toInstr p

/-- The payload of the init command, `"000A"` (R103, R254). -/
def initPayload : Bytes := ascii ['0', '0', '0', 'A']

/-- The payload positions [4..4+n) of a frame of n + 10 bytes (R100). -/
def wirePayload (f : Bytes) : Bytes := slice f 4 (f.length - 6)

/-- A wire frame, read back to its payload (R100). -/
def decodeWire (f : Bytes) : Decoded :=
  if encodeFrame (wirePayload f) = f then .ok (.frame (wirePayload f)) else .reject .notFrame

/-- The decoder: total, and rejecting by name. -/
def decode : Code → Decoded
  | .host w arg => decodeHost w arg
  | .body b => .ok (decodeBody b)
  | .txPayload p => if p = initPayload then .ok .init else .reject .notInit
  | .wire f => decodeWire f
  | .rxStep b => .ok (.rxDeliver b)
  | .linkFailStep => .ok .linkFail
  | .pumpStep => .ok .pstep
  | .timeoutStep => .ok .timeout

/-- `nbits / 8` bytes of a number whose bit 0 is bit 0 of the first byte. -/
def tableBytes : Nat → Nat → Bytes
  | 0, _ => []
  | n + 1, w => BitVec.ofNat 8 w :: tableBytes n (w / 256)

/-- The instruction read from the bits of a row of the opcode table: 32 bits are a host command word with an empty data
port; any other number of bytes is the payload of a received frame, which goes on the wire with its checksum and comes
back through the scanner (log entry 9). -/
def decodeTableWord (nbits w : Nat) : Option Instr :=
  if nbits = 32 then
    match decodeHost (BitVec.ofNat 32 w) [] with
    | .ok i => some i
    | .reject _ => none
  else
    match extractOne (encodeFrame (tableBytes (nbits / 8) w)) with
    | some (body, _) => some (decodeBody body)
    | none => none

/-! ## The encoder -/

/-- The command word with the given fields (R108); bits 31 to 18 are 0. -/
def commandWord (op : BitVec 8) (kind : Kind) (cb tmo : Bool) : Word :=
  (0#14 ++ BitVec.ofBool tmo ++ BitVec.ofBool cb ++ kind ++ op : BitVec 32)

/-- `0000SSSS` and a secondary code (R105, R106). -/
def genericPayload (seq : Seq) (code : Bytes) : Bytes := opGeneric ++ hex4 seq ++ code

/-- The encoding of an instruction: the command word and data-port bytes of a host command, the frame body of a received
class (its payload with the checksum), the characters of INIT, the wire bytes of FRAME, and the step of an agent. A
sequence number is written in uppercase hex (log entry 7). -/
def encode : Instr → Code
  | .reset => .host (commandWord 0x01 0 false false) []
  | .connect => .host (commandWord 0x02 0 false false) []
  | .submit kind cb payload => .host (commandWord 0x03 kind cb false) payload
  | .pump tmo => .host (commandWord 0x04 0 false tmo) []
  | .status => .host (commandWord 0x05 0 false false) []
  | .rxcount => .host (commandWord 0x06 0 false false) []
  | .crc16 arg => .host (commandWord 0x07 0 false false) arg
  | .ack seq => .body (bodyOf (genericPayload seq codeAck))
  | .busy seq => .body (bodyOf (genericPayload seq codeBusy))
  | .error seq code => .body (bodyOf (genericPayload seq code))
  | .switchOn seq addr => .body (bodyOf (genericPayload seq (codeOn ++ addr)))
  | .switchOff seq addr => .body (bodyOf (genericPayload seq (codeOff ++ addr)))
  | .respInit _ p => .body (bodyOf p)
  | .respPower _ p => .body (bodyOf p)
  | .respCircle _ p => .body (bodyOf p)
  | .respStatus _ p => .body (bodyOf p)
  | .respCalib _ p => .body (bodyOf p)
  | .respHistory _ p => .body (bodyOf p)
  | .unrecognized p => .body (bodyOf p)
  | .crcError body => .body body
  | .init => .txPayload initPayload
  | .frame p => .wire (encodeFrame p)
  | .rxDeliver b => .rxStep b
  | .linkFail => .linkFailStep
  | .pstep => .pumpStep
  | .timeout => .timeoutStep

end Sys2Proof
end

