-- ==== Sys2Proof/Machine/Operands.lean ====
section
/-! DEFINITION. Operand assembly (spec R110, R254), the capacity comparisons of R404, and the scheduled step the machine
fetches next (R350, log entry 1). -/

namespace Sys2Proof.Machine

/-- The descriptor SUBMIT builds (R110). -/
def submitDescriptor (kind : Kind) (cb : Bool) (payload : Bytes) : Descriptor :=
  { payload := payload, kind := kind, cb := cb }

/-- `INIT_DESC` (R254). -/
def initDescriptor (p : Params) : Descriptor := { payload := initPayload, kind := p.initKind, cb := false }

/-- The context PUMP builds (R110). -/
def pumpContext (tmo : Bool) : PumpCtx := { tmo := tmo, peek := none }

/-- `n` is more than the capacity; nothing is more than INF. -/
def exceeds (n : Nat) : Capacity → Bool
  | none => false
  | some c => decide (c < n)

/-- A storage that holds `n` items has no room for another; INF always has room. -/
def isFull (n : Nat) : Capacity → Bool
  | none => false
  | some c => decide (c ≤ n)

/-- The next scheduled step and the state it is taken in: the schedule without it. -/
def fetchAction (s : State) : Option (Action × State) :=
  match s.sched with
  | [] => none
  | a :: rest => some (a, { s with sched := rest })

/-- The code of an agent's step; the reset pin is no instruction (R451). -/
def actionCode : Action → Option Code
  | .host w arg => some (.host w arg)
  | .rx b => some (.rxStep b)
  | .linkFail => some .linkFailStep
  | .pstep => some .pumpStep
  | .timeout => some .timeoutStep
  | .resetPin => none

end Sys2Proof.Machine
end

