-- ==== Sys2Proof/Machine/Ops.lean ====
section
/-! DEFINITION. The shared operations of PWLINK: the sequence table, the trace and the host's results (spec R12, R40), the
end of a PUMP (R356), a capacity fault (R404) and reset, which alone leaves it (R407, R450), the single-flight queue (R252
to R257), the kind lookup (R311), and the conditions under which each agent has a step (R350, R364, R405). -/

namespace Sys2Proof.Machine

/-! ## The sequence table (R36) -/

/-- `seqtab[k]`. -/
def seqLookup (k : Seq) : SeqTab → Option SeqEntry
  | [] => none
  | (k', e) :: t => if k' = k then some e else seqLookup k t

/-- `seqtab[k] := e`: insert or overwrite, keys kept rising. -/
def seqInsert (k : Seq) (e : SeqEntry) : SeqTab → SeqTab
  | [] => [(k, e)]
  | (k', e') :: t =>
    if k.toNat < k'.toNat then (k, e) :: (k', e') :: t
    else if k' = k then (k, e) :: t
    else (k', e') :: seqInsert k e t

/-- `delete seqtab[k]`: nothing if absent. -/
def seqDelete (k : Seq) (t : SeqTab) : SeqTab := t.filter fun ke => decide (ke.1 ≠ k)

/-- The canonical form of a sequence table: keys strictly rising, so equal maps are equal lists. -/
abbrev SeqTab.wf (t : SeqTab) : Prop := t.Pairwise fun a b => a.1.toNat < b.1.toNat

/-! ## The trace and the host's results -/

/-- `emit(ev)` (R12, R40). -/
def emit (ev : Event) (s : State) : State := { s with out := s.out ++ [ev] }

/-- `return r` of a host command (R12, R363). -/
def reply (r : HostResult) (s : State) : State := { s with replies := s.replies ++ [r] }

/-- `finish(o)` (R356). -/
def finish (o : PumpOutcome) (s : State) : State := { emit (.result o) s with pump := none }

/-! ## A capacity fault, and reset -/

/-- `fault(cause)` (R404): the sticky bit is set in place and an active PUMP finishes FAULTED. Nothing is saved, no vector
is taken, no mode changes (R406). -/
def raiseFault (cause : FaultCause) (s : State) : State :=
  if s.pump.isSome then finish .faulted { s with fault := some cause } else { s with fault := some cause }

/-- What a procedure leaves: it goes on, or it ended its transition by a fault (R12: 'ends the current transition at
once'). -/
inductive Flow where
  | go (s : State)
  | stop (s : State)
  deriving DecidableEq, Repr

/-- Reset (R450): the only way out of a fault or of `fatal` (R407). The trace is not changed, and a PUMP it cuts short
gives no Result (R451). -/
def resetBlock (s : State) : State :=
  { s with rxbuf := [], fifo := [], inflight := none, seqtab := [], pump := none, fatal := false, fault := none }

/-! ## The command queue -/

/-- One atomic transport write of a payload's frame (R151, R255, R367). -/
def transmit (payload : Bytes) (s : State) : State := emit (.tx (encodeFrame payload)) s

/-- `write(d)` (R255). -/
def write (d : Descriptor) (s : State) : State := transmit d.payload { s with inflight := some d }

/-- `write_next` (R256). -/
def writeNext (s : State) : State :=
  match s.fifo with
  | [] => s
  | h :: t => write h { s with fifo := t }

/-- `enqueue(d)` (R252). -/
def enqueue (d : Descriptor) (s : State) : Flow :=
  match s.inflight with
  | none => .go (write d s)
  | some _ =>
    if isFull s.fifo.length s.cfg.qDepth then .stop (raiseFault .queueOverflow s)
    else .go { s with fifo := s.fifo ++ [d] }

/-- The Completion of the command in flight, if its descriptor asks for one (R257). -/
def complete (st : CStatus) (s : State) : State :=
  match s.inflight with
  | some d => if d.cb then emit (.completion d st) s else s
  | none => s

/-- `on_resolved(st)` (R257): Completion, then the lock is cleared, then the next write (conflict C1). -/
def onResolved (st : CStatus) (s : State) : State := writeNext { complete st s with inflight := none }

/-- `kind_of(s)` (R311). -/
def kindOf (q : Seq) (s : State) : Option Kind :=
  match seqLookup q s.seqtab with
  | some e => e.kind
  | none => s.inflight.map (·.kind)

/-- What every resolving class does (R312 to R314): the table entry is deleted, the lock is released, and the PUMP returns
the outcome. The outcome is computed before (R311). -/
def resolve (q : Seq) (st : CStatus) (o : PumpOutcome) (s : State) : State :=
  finish o (onResolved st { s with seqtab := seqDelete q s.seqtab })

/-! ## When an agent has a step -/

/-- A host command: the host has a step only while no PUMP is active (R350, R352). -/
def hostCall (body : State → State) (s : State) : Answer :=
  match s.pump with
  | some _ => .fault .hostBlocked
  | none => .next (body s)

/-- The gate of SUBMIT, CONNECT and PUMP (R364, R405): FAULTED before FATAL before the command's own rule. -/
def gated (body : State → State) (s : State) : State :=
  if s.fault.isSome then reply .faulted s
  else if s.fatal then reply .fatal s
  else body s

/-- The command word matched no row of R109 (R111, R351, R401). -/
def issueIllegal (s : State) : Answer := hostCall (reply .illegal) s

/-- A received class runs inside one pump step, after the frame was taken out of `rxbuf` and verified (R354, R358). -/
def inPumpStep (body : PumpCtx → State → State) (s : State) : Answer :=
  match s.pump with
  | none => .fault .pumpNotEnabled
  | some ctx => if s.fault.isSome || s.fatal then .fault .pumpNotEnabled else .next (body ctx s)

/-- PWLINK can send (R364, R367): neither `fault` nor `fatal` is set. -/
def canSend (s : State) : Bool := !s.fault.isSome && !s.fatal

/-- PSTEP is enabled (R350). -/
def pstepEnabled (s : State) : Bool :=
  match s.pump with
  | none => false
  | some ctx => (extractOne s.rxbuf).isSome || ctx.peek.isSome || s.fatal || s.fault.isSome

/-- TIMEOUT is enabled (R350). -/
def timeoutEnabled (s : State) : Bool :=
  match s.pump with
  | none => false
  | some ctx => ctx.tmo && ctx.peek.isNone && (extractOne s.rxbuf).isNone && !s.fatal && s.fault.isNone

end Sys2Proof.Machine
end

