-- ==== Sys2Proof/Machine/HostCommands.lean ====
section
/-! DEFINITION. The seven host commands (spec R206, R251, R253, R353, R360 to R362). -/

namespace Sys2Proof.Machine

/-- RESET (R362): not gated; it alone of the commands clears `fault` and `fatal`. -/
def execReset (s : State) : Answer := hostCall (fun s => reply .ok (resetBlock s)) s

/-- What SUBMIT and CONNECT return after `enqueue` (R251, R253): OK, or FAULTED if it faulted (R404). -/
def enqueueAndReturn (d : Descriptor) (s : State) : State :=
  match enqueue d s with
  | .go s' => reply .ok s'
  | .stop s' => reply .faulted s'

/-- CONNECT (R253). -/
def execConnect (s : State) : Answer :=
  hostCall (gated fun s => enqueueAndReturn (initDescriptor s.cfg) s) s

/-- SUBMIT (R251): PAYLOAD_TOO_LONG is checked before QUEUE_OVERFLOW (R405). -/
def execSubmit (kind : Kind) (cb : Bool) (payload : Bytes) (s : State) : Answer :=
  hostCall (gated fun s =>
    if exceeds payload.length s.cfg.maxPayload then reply .faulted (raiseFault .payloadTooLong s)
    else enqueueAndReturn (submitDescriptor kind cb payload) s) s

/-- PUMP (R353): it has no result yet; `finish` gives it. -/
def execPump (tmo : Bool) (s : State) : Answer :=
  hostCall (gated fun s => { s with pump := some (pumpContext tmo) }) s

/-- STATUS (R360): not gated. -/
def execStatus (s : State) : Answer := hostCall (fun s => reply (.okWord (statusWord s)) s) s

/-- RXCOUNT (R361): not gated. -/
def execRxcount (s : State) : Answer := hostCall (fun s => reply (.okWord (rxcountWord s)) s) s

/-- CRC16 (R206): not gated; ILLEGAL for an argument longer than MAX_PAYLOAD (D40). -/
def execCrc16 (arg : Bytes) (s : State) : Answer :=
  hostCall (fun s =>
    if exceeds arg.length s.cfg.maxPayload then reply .illegal s
    else reply (.okCrc (crc16 arg) (hex4 (crc16 arg))) s) s

end Sys2Proof.Machine
end

