-- ==== Sys2Proof/Machine/Outbound.lean ====
section
/-! DEFINITION. The two outbound rows of the opcode table, INIT (spec R103, R254) and FRAME (R100, R151). Neither is a step
of R350 by itself: CONNECT and BUSY enqueue INIT, and every write sends a FRAME (log entry 5). -/

namespace Sys2Proof.Machine

/-- INIT (R103, R254): PWLINK enqueues the init command it builds itself, as CONNECT and BUSY do (R252). -/
def execInit (s : State) : Answer :=
  if canSend s then
    match enqueue (initDescriptor s.cfg) s with
    | .go s' => .next s'
    | .stop s' => .next s'
  else .fault .sendNotEnabled

/-- FRAME (R100, R151): the payload's frame leaves as one Tx event (R255, R367). -/
def execFrame (payload : Bytes) (s : State) : Answer :=
  if canSend s then .next (transmit payload s) else .fault .sendNotEnabled

end Sys2Proof.Machine
end

