-- ==== Sys2Proof/Machine/Received.lean ====
section
/-! DEFINITION. The thirteen received classes (spec R310 to R317). Each meaning is what one pump step does after it took the
frame out of `rxbuf` (R354, R358): the class's effects, and the PUMP's outcome, or for an ACK the peek (log entry 6). -/

namespace Sys2Proof.Machine

/-- ACK (R310): the entry is recorded, the lock is unchanged, and the PUMP goes on peeking (R354). -/
def execAck (q : Seq) (s : State) : Answer :=
  inPumpStep (fun ctx s =>
    if (seqLookup q s.seqtab).isNone && isFull s.seqtab.length s.cfg.seqDepth then raiseFault .seqOverflow s
    else
      { s with
        seqtab := seqInsert q { kind := s.inflight.map (·.kind), receivedOk := true } s.seqtab
        pump := some { ctx with peek := some q } }) s

/-- BUSY (R315): INIT is enqueued; the lock and the table are unchanged (D16). -/
def execBusy (q : Seq) (s : State) : Answer :=
  inPumpStep (fun _ s =>
    match enqueue (initDescriptor s.cfg) s with
    | .go s' => finish (.reinit q) s'
    | .stop s' => s') s

/-- ERROR (R312): the outcome carries the command in flight and its kind (D17). -/
def execError (q : Seq) (code : Bytes) (s : State) : Answer :=
  inPumpStep (fun _ s => resolve q .error (.error q code s.inflight (kindOf q s)) s) s

/-- SWITCH (R313), either state. -/
def receiveSwitch (q : Seq) (st : SwitchState) (addr : Bytes) (s : State) : Answer :=
  inPumpStep (fun _ s => resolve q .ok (.switched q st addr (kindOf q s)) s) s

/-- SWITCH_ON (R313, code `00D8`). -/
def execSwitchOn (q : Seq) (addr : Bytes) (s : State) : Answer := receiveSwitch q .on addr s

/-- SWITCH_OFF (R313, code `00DE`). -/
def execSwitchOff (q : Seq) (addr : Bytes) (s : State) : Answer := receiveSwitch q .off addr s

/-- TERMINAL (R314): the outcome carries the whole verified payload for the host's decoder. -/
def receiveTerminal (op : RespOp) (q : Seq) (p : Bytes) (s : State) : Answer :=
  inPumpStep (fun _ s => resolve q .ok (.response (respOpText op) q (kindOf q s) p) s) s

/-- RESP_INIT (R314, opcode `0011`). -/
def execRespInit (q : Seq) (p : Bytes) (s : State) : Answer := receiveTerminal .init q p s

/-- RESP_POWER (R314, opcode `0013`). -/
def execRespPower (q : Seq) (p : Bytes) (s : State) : Answer := receiveTerminal .power q p s

/-- RESP_CIRCLE (R314, opcode `0019`). -/
def execRespCircle (q : Seq) (p : Bytes) (s : State) : Answer := receiveTerminal .circle q p s

/-- RESP_STATUS (R314, opcode `0024`). -/
def execRespStatus (q : Seq) (p : Bytes) (s : State) : Answer := receiveTerminal .status q p s

/-- RESP_CALIB (R314, opcode `0027`). -/
def execRespCalib (q : Seq) (p : Bytes) (s : State) : Answer := receiveTerminal .calib q p s

/-- RESP_HISTORY (R314, opcode `0049`). -/
def execRespHistory (q : Seq) (p : Bytes) (s : State) : Answer := receiveTerminal .history q p s

/-- UNRECOGNIZED (R316): nothing but the outcome. -/
def execUnrecognized (p : Bytes) (s : State) : Answer := inPumpStep (fun _ s => finish (.noData p) s) s

/-- CRC_ERROR (R317): nothing but the outcome. -/
def execCrcError (body : Bytes) (s : State) : Answer := inPumpStep (fun _ s => finish (.crcError body) s) s

end Sys2Proof.Machine
end

