-- ==== Sys2Proof/Machine/PumpEngine.lean ====
section
/-! DEFINITION. The steps of the pump engine (spec R354, R355, R358). -/

namespace Sys2Proof.Machine

/-- The class rule of a verified payload (R358), on the state without the frame. -/
def processClass (p : Bytes) (c : RxClass) (s : State) : Answer :=
  match c with
  | .ack q => execAck q s
  | .busy q => execBusy q s
  | .error q code => execError q code s
  | .switch q .on addr => execSwitchOn q addr s
  | .switch q .off addr => execSwitchOff q addr s
  | .terminal .init q => execRespInit q p s
  | .terminal .power q => execRespPower q p s
  | .terminal .circle q => execRespCircle q p s
  | .terminal .status q => execRespStatus q p s
  | .terminal .calib q => execRespCalib q p s
  | .terminal .history q => execRespHistory q p s
  | .unrecognized => execUnrecognized p s

/-- `process(body)` (R358) with what the pump does with its outcome (R354). -/
def process (body : Bytes) (s : State) : Answer :=
  match verify body with
  | none => execCrcError body s
  | some p => processClass p (classify p) s

/-- PSTEP (R354), enabled as R350 says: FAULTED, then FATAL, then extraction (R405). -/
def execPstep (s : State) : Answer :=
  match s.pump with
  | none => .fault .pumpNotEnabled
  | some ctx =>
    if s.fault.isSome then .next (finish .faulted s)
    else if s.fatal then .next (finish .fatal s)
    else
      match extractOne s.rxbuf with
      | some (body, rest) => process body { s with rxbuf := rest }
      | none =>
        match ctx.peek with
        | some q => .next (finish (.ack q) s)
        | none => .fault .pumpNotEnabled

/-- TIMEOUT (R355), enabled as R350 says. -/
def execTimeout (s : State) : Answer :=
  if timeoutEnabled s then .next (finish .none s) else .fault .timeoutNotEnabled

end Sys2Proof.Machine
end

