-- ==== Sys2Proof/Machine/Transport.lean ====
section
/-! DEFINITION. The steps of the transport agent (spec R365, R366). -/

namespace Sys2Proof.Machine

/-- RX_DELIVER (R365): the byte is lost while `fault` or `fatal` is set; a full buffer faults. -/
def execRxDeliver (b : Byte) (s : State) : Answer :=
  if s.fault.isSome || s.fatal then .next s
  else if isFull s.rxbuf.length s.cfg.rxDepth then .next (raiseFault .rxOverflow s)
  else .next { s with rxbuf := s.rxbuf ++ [b] }

/-- LINK_FAIL (R366): enabled while `fatal` is false (R350). -/
def execLinkFail (s : State) : Answer :=
  if s.fatal then .fault .linkAlreadyFailed else .next { s with fatal := true }

end Sys2Proof.Machine
end

