-- ==== Sys2Proof/Machine/Dispatch.lean ====
section
/-! DEFINITION. One arm per constructor of `Instr`: each calls its instruction's meaning. -/

namespace Sys2Proof.Machine

def exec (i : Instr) (s : State) : Host.Outcome State Fault Refusal :=
  match i with
  -- host commands (R109)
  | .reset => Sys2Proof.Machine.execReset s
  | .connect => Sys2Proof.Machine.execConnect s
  | .submit kind cb payload => Sys2Proof.Machine.execSubmit kind cb payload s
  | .pump tmo => Sys2Proof.Machine.execPump tmo s
  | .status => Sys2Proof.Machine.execStatus s
  | .rxcount => Sys2Proof.Machine.execRxcount s
  | .crc16 arg => Sys2Proof.Machine.execCrc16 arg s
  -- received classes (R106, R317)
  | .ack seq => Sys2Proof.Machine.execAck seq s
  | .busy seq => Sys2Proof.Machine.execBusy seq s
  | .error seq code => Sys2Proof.Machine.execError seq code s
  | .switchOn seq addr => Sys2Proof.Machine.execSwitchOn seq addr s
  | .switchOff seq addr => Sys2Proof.Machine.execSwitchOff seq addr s
  | .respInit seq payload => Sys2Proof.Machine.execRespInit seq payload s
  | .respPower seq payload => Sys2Proof.Machine.execRespPower seq payload s
  | .respCircle seq payload => Sys2Proof.Machine.execRespCircle seq payload s
  | .respStatus seq payload => Sys2Proof.Machine.execRespStatus seq payload s
  | .respCalib seq payload => Sys2Proof.Machine.execRespCalib seq payload s
  | .respHistory seq payload => Sys2Proof.Machine.execRespHistory seq payload s
  | .unrecognized payload => Sys2Proof.Machine.execUnrecognized payload s
  | .crcError body => Sys2Proof.Machine.execCrcError body s
  -- outbound (R100, R103)
  | .init => Sys2Proof.Machine.execInit s
  | .frame payload => Sys2Proof.Machine.execFrame payload s
  -- agent steps (R350)
  | .rxDeliver b => Sys2Proof.Machine.execRxDeliver b s
  | .linkFail => Sys2Proof.Machine.execLinkFail s
  | .pstep => Sys2Proof.Machine.execPstep s
  | .timeout => Sys2Proof.Machine.execTimeout s

end Sys2Proof.Machine
end

