-- ==== Sys2Proof/Machine/Step.lean ====
section
/-! DEFINITION. One transition of PWLINK (spec R7, R350). The schedule says which agent moves and what it does (log
entry 1); the step decodes that into an instruction and runs it. -/

namespace Sys2Proof.Machine

/-- An agent's step, taken in `s`: the instruction it decodes to, ILLEGAL for a command word that decodes to none (R351),
reset for the reset pin (R451). -/
def runAction (a : Action) (s : State) : Host.Outcome State Fault Refusal :=
  match actionCode a with
  | none => .next (resetBlock s)
  | some c =>
    match decode c with
    | .ok i => exec i s
    | .reject _ => issueIllegal s

/-- One step: the next scheduled one. Where nothing is scheduled, the pump engine, which is PWLINK's own agent (R6), takes
its PSTEP if R350 enables it; otherwise nothing happens and the block waits (log entry 1). -/
def step (s : State) : Host.Outcome State Fault Refusal :=
  match fetchAction s with
  | some (a, s') => runAction a s'
  | none => if pstepEnabled s then exec .pstep s else .next s

/-- `s` with one instruction where the next step fetches it: a command word issued by a host that no PUMP blocks (R352),
or, for a payload of any other width, its frame at the front of `rxbuf` and a pump step of a new PUMP in a block without
`fault` and `fatal` (R354; log entry 9). -/
def State.withFetchWord (s : State) (nbits w : Nat) : State :=
  if nbits = 32 then { s with pump := none, sched := .host (BitVec.ofNat 32 w) [] :: s.sched }
  else
    { s with
      pump := some (pumpContext false), fault := none, fatal := false,
      rxbuf := encodeFrame (tableBytes (nbits / 8) w) ++ s.rxbuf, sched := .pstep :: s.sched }

end Sys2Proof.Machine
end

