-- ==== Sys2Proof/Safety.lean ====
section
/-! DEFINITION. What counts as a sound state of PWLINK and the terms statements about runs use: the capacity bounds and the
structural invariants of spec R31 to R39 and R404, the frames a trace has sent and the events of a resolution (R257, R259,
R359), and the instructions that release the lock (R258, R305). -/

namespace Sys2Proof.Machine

/-- `n` items fit a capacity (R8). -/
def Fits (n : Nat) (c : Capacity) : Prop := ∀ m, c = some m → n ≤ m

/-- A capacity has room for one item more than `n` (R404: the fault is raised where this fails). -/
def HasRoom (n : Nat) (c : Capacity) : Prop := ∀ m, c = some m → n < m

/-- Every capacity is INF (R8). -/
def Unbounded (p : Params) : Prop :=
  p.rxDepth = none ∧ p.qDepth = none ∧ p.seqDepth = none ∧ p.maxPayload = none

/-- `k` steps, stopping at the first fault or refusal. -/
def run : Nat → State → Answer
  | 0, s => .next s
  | k + 1, s =>
    match step s with
    | .next s' => run k s'
    | .fault r => .fault r
    | .refused r => .refused r

/-- What holds of the state after every transition. -/
structure State.Inv (s : State) : Prop where
  /-- The parameters are in the ranges of R8. -/
  legal : s.cfg.legal = true
  /-- R31: the receive buffer never exceeds RX_DEPTH. -/
  rxbufFits : Fits s.rxbuf.length s.cfg.rxDepth
  /-- R32: the FIFO never exceeds Q_DEPTH. -/
  fifoFits : Fits s.fifo.length s.cfg.qDepth
  /-- R36: the sequence table never exceeds SEQ_DEPTH. -/
  seqtabFits : Fits s.seqtab.length s.cfg.seqDepth
  /-- R33: every descriptor's payload fits MAX_PAYLOAD. -/
  payloadsFit : ∀ d, s.inflight = some d ∨ d ∈ s.fifo → Fits d.payload.length s.cfg.maxPayload
  /-- R35: no command waits while nothing is in flight. -/
  queue : s.inflight = none → s.fifo = []
  /-- R36: the sequence table is a map, in its canonical form. -/
  seqtabWf : SeqTab.wf s.seqtab
  /-- R36: `received_ok` is true in every entry. -/
  received : ∀ ke ∈ s.seqtab, ke.2.receivedOk = true
  /-- R404, R407: a fault ended the PUMP it came in, and none starts after it. -/
  faultEndsPump : s.fault ≠ none → s.pump = none
  /-- R38, R310: the ACK a PUMP peeks behind has its entry. -/
  peekRecorded : ∀ ctx q, s.pump = some ctx → ctx.peek = some q → (seqLookup q s.seqtab).isSome = true

/-- The frames a trace has sent, oldest first. -/
def sentFrames (out : List Event) : List Bytes :=
  out.filterMap fun ev =>
    match ev with
    | .tx f => some f
    | .completion _ _ => none
    | .result _ => none

/-- The frames of the waiting commands, in the order they will be sent. -/
def waitingFrames (s : State) : List Bytes := s.fifo.map fun d => encodeFrame d.payload

/-- The Completion of a resolution, if the command in flight asks for one (R257). -/
def completionEvents (st : CStatus) : Option Descriptor → List Event
  | none => []
  | some d => if d.cb then [.completion d st] else []

/-- The next write of a resolution, if a command waits (R256). -/
def nextWriteEvents : List Descriptor → List Event
  | [] => []
  | d :: _ => [.tx (encodeFrame d.payload)]

/-- The state a resolving frame of sequence number `q` leaves, with the outcome `o` (R257, R312 to R314, R359). -/
def resolvedState (q : Seq) (st : CStatus) (o : PumpOutcome) (s : State) : State :=
  { s with
    seqtab := seqDelete q s.seqtab
    inflight := s.fifo.head?
    fifo := s.fifo.tail
    pump := none
    out := s.out ++ (completionEvents st s.inflight ++ nextWriteEvents s.fifo ++ [.result o]) }

/-- The resolving classes (R305). -/
def isResolving : Instr → Bool
  | .error _ _ => true
  | .switchOn _ _ => true
  | .switchOff _ _ => true
  | .respInit _ _ => true
  | .respPower _ _ => true
  | .respCircle _ _ => true
  | .respStatus _ _ => true
  | .respCalib _ _ => true
  | .respHistory _ _ => true
  | .reset => false
  | .connect => false
  | .submit _ _ _ => false
  | .pump _ => false
  | .status => false
  | .rxcount => false
  | .crc16 _ => false
  | .ack _ => false
  | .busy _ => false
  | .unrecognized _ => false
  | .crcError _ => false
  | .init => false
  | .frame _ => false
  | .rxDeliver _ => false
  | .linkFail => false
  | .pstep => false
  | .timeout => false

/-- In `s`, the instruction takes the command in flight off the wire: a resolving class, a pump step on a frame that
decodes to one, or RESET (R258). -/
def ReleasesLock (i : Instr) (s : State) : Prop :=
  isResolving i = true ∨ i = .reset ∨
    (i = .pstep ∧ s.fault = none ∧ s.fatal = false ∧ ∃ body rest, extractOne s.rxbuf = some (body, rest) ∧
      isResolving (decodeBody body) = true)

/-- The next scheduled step is a reset: the pin, or the RESET command (R451). -/
def ResetIsNext (s : State) : Prop :=
  ∃ rest, s.sched = .resetPin :: rest ∨ ∃ w arg, s.sched = .host w arg :: rest ∧ decodeHost w arg = .ok .reset

/-- The next step is a pump step of an active PUMP: the scheduled PSTEP, or the pump engine's own where nothing is scheduled
(R350, R354; log entry 1). -/
def PumpStepIsNext (s : State) : Prop := s.pump ≠ none ∧ (s.sched = [] ∨ ∃ rest, s.sched = .pstep :: rest)

/-- The next step is a pump step on a frame that resolves the request in flight (R305, R354). -/
def ResolvingStepIsNext (s : State) : Prop := PumpStepIsNext s ∧ ReleasesLock .pstep s

/-- The descriptor an instruction enqueues: SUBMIT its own (R110, R251), CONNECT, BUSY and INIT `INIT_DESC` (R253, R254,
R315). -/
def enqueuedBy (p : Params) : Instr → Option Descriptor
  | .submit kind cb payload => some { payload := payload, kind := kind, cb := cb }
  | .connect => some (initDescriptor p)
  | .busy _ => some (initDescriptor p)
  | .init => some (initDescriptor p)
  | .reset => none
  | .pump _ => none
  | .status => none
  | .rxcount => none
  | .crc16 _ => none
  | .ack _ => none
  | .error _ _ => none
  | .switchOn _ _ => none
  | .switchOff _ _ => none
  | .respInit _ _ => none
  | .respPower _ _ => none
  | .respCircle _ _ => none
  | .respStatus _ _ => none
  | .respCalib _ _ => none
  | .respHistory _ _ => none
  | .unrecognized _ => none
  | .crcError _ => none
  | .frame _ => none
  | .rxDeliver _ => none
  | .linkFail => none
  | .pstep => none
  | .timeout => none

/-- The next step calls `enqueue` on `d`, if nothing turns it away: the host's SUBMIT or CONNECT, or a pump step on a BUSY
frame (R252, R259). -/
def EnqueueIsNext (d : Descriptor) (s : State) : Prop :=
  (∃ w arg rest i, s.sched = .host w arg :: rest ∧ decodeHost w arg = .ok i ∧ enqueuedBy s.cfg i = some d) ∨
  (PumpStepIsNext s ∧ ∃ body rest, extractOne s.rxbuf = some (body, rest) ∧
    enqueuedBy s.cfg (decodeBody body) = some d)

/-- The host has a step, and the command is not gated (R350, R364): no PUMP is active, no fault, no transport loss. -/
def HostReady (s : State) : Prop := s.pump = none ∧ s.fault = none ∧ s.fatal = false

/-- A pump step is under way with the context `ctx`, and it is not ended by `fault` or `fatal` (R354). -/
def PumpReady (ctx : PumpCtx) (s : State) : Prop := s.pump = some ctx ∧ s.fault = none ∧ s.fatal = false

end Sys2Proof.Machine
end

