-- ==== Sys2Proof/Certificates/Slice0/Obligations.lean ====
section
/-! DEFINITION. The statements about PWLINK for the provers. Each docstring names the rule of spec/ it formalises; a
statement whose basis is the model's own reading says so and names the log entry. -/

section

open Sys2Proof Sys2Proof.Machine

/-! ## Encodings -/

/-- Decode and encode agree: every well-formed instruction's encoding decodes to it, with every operand. (A sequence number
is encoded in uppercase hex; R301 reads either case: log entry 7.) -/
def Obligations.EncodedInstructionsDecodeToThemselves : Prop :=
  ∀ i : Instr, i.wf = true → decode (encode i) = .ok i

/-- Every word that decodes is the word its instruction is encoded as: no bit of a host command word is dropped. SUBMIT and
CRC16 keep their data-port bytes; the others, which take none, drop bytes given all the same (the model's choice, log entry
10). -/
def Obligations.DecodedCommandWordsEncodeBack : Prop :=
  ∀ (w : Word) (arg : Bytes) (i : Instr), decodeHost w arg = .ok i →
    (((∃ kind cb, i = .submit kind cb arg) ∨ i = .crc16 arg) ∧ encode i = .host w arg) ∨
    ((i = .reset ∨ i = .connect ∨ (∃ tmo, i = .pump tmo) ∨ i = .status ∨ i = .rxcount) ∧ encode i = .host w [])

/-- R109: the match and mask pairs overlap nowhere, and a word decodes exactly when one of them matches, whatever is on the
data port. (That bytes given with a command that takes none are ignored is the model's choice, log entry 10.) -/
def Obligations.CommandRowsAreDisjointAndDecodingFollowsThem : Prop :=
  (∀ (w : Word), ∀ r ∈ hostRows, ∀ r' ∈ hostRows, w &&& r.mask = r.pattern → w &&& r'.mask = r'.pattern → r = r') ∧
  (∀ (w : Word) (arg : Bytes), (∃ i, decodeHost w arg = .ok i) ↔ ∃ r ∈ hostRows, w &&& r.mask = r.pattern)

/-- R109, with the fields of R108 and the operands of R110: the instruction each match and mask pair stands for, its fields
read from their bits and its argument from the data port. (That RESET, CONNECT, PUMP, STATUS and RXCOUNT ignore bytes on the
data port is the model's choice, log entry 10.) -/
def Obligations.CommandFieldsAreReadFromTheirBits : Prop :=
  ∀ (w : Word) (arg : Bytes),
    (w &&& 0xFFFFFFFF = 0x00000001 → decodeHost w arg = .ok .reset) ∧
    (w &&& 0xFFFFFFFF = 0x00000002 → decodeHost w arg = .ok .connect) ∧
    (w &&& 0xFFFFFFFF = 0x00000005 → decodeHost w arg = .ok .status) ∧
    (w &&& 0xFFFFFFFF = 0x00000006 → decodeHost w arg = .ok .rxcount) ∧
    (w &&& 0xFFFE00FF = 0x00000003 →
      decodeHost w arg = .ok (.submit (w.extractLsb' 8 8) (w.getLsbD 16) arg)) ∧
    (w &&& 0xFFFDFFFF = 0x00000004 → decodeHost w arg = .ok (.pump (w.getLsbD 17))) ∧
    (w &&& 0xFFFFFFFF = 0x00000007 → decodeHost w arg = .ok (.crc16 arg))

/-- Words written out from R109, and bodies from 95_test_vectors.md, decode to the instructions they stand for. -/
def Obligations.KnownCodesDecode : Prop :=
  decode (.host 0x00000001 []) = .ok .reset ∧
  decode (.host 0x00000002 []) = .ok .connect ∧
  decode (.host 0x00010903 [0x30]) = .ok (.submit 9 true [0x30]) ∧
  decode (.host 0x00020004 []) = .ok (.pump true) ∧
  decode (.host 0x00000105 []) = .reject .illegalWord ∧
  decode (.body (ascii ['0', '0', '0', '0', '0', '0', '0', '1', '0', '0', 'C', '1', 'F', 'E', 'E', 'D'])) = .ok (.ack 1) ∧
  decode (.body (ascii ['0', '0', '1', '3', '0', '0', '0', '5', '0', '0', 'C', 'B', '8', '1'])) =
    .ok (.respPower 5 (ascii ['0', '0', '1', '3', '0', '0', '0', '5', '0', '0']))

/-- R106: the class of a payload of WORD characters is that of the first row of the table whose pattern it has. -/
def Obligations.ClassifyTakesTheFirstMatchingRow : Prop :=
  ∀ p : Bytes, (∀ x ∈ p, isWord x = true) → (classify p).row = tableRow p

/-- R107: a payload without a sequence number in hex digits is UNRECOGNIZED, and so is one shorter than 8 characters. -/
def Obligations.PayloadsWithoutSequenceNumberAreUnrecognized : Prop :=
  ∀ p : Bytes,
    ((∃ x ∈ slice p 4 8, isHexAny x = false) → classify p = .unrecognized) ∧
    (p.length < 8 → classify p = .unrecognized)

/-- R302, R303 with the positions of R105: the fields a class carries, and R358: the instruction its verified body decodes to,
which carries them. The sequence number is the reading of p[4..8), in hex digits of either case (R301), the code of an ERROR
is p[8..12), the address of a SWITCH is p[12..28), and a terminal class is that of the opcode p[0..4). -/
def Obligations.ClassesCarryTheirFields : Prop :=
  ∀ (p : Bytes) (q : Seq) (code addr : Bytes) (st : SwitchState) (op : RespOp),
    (classify p = .ack q →
      slice p 0 4 = [0x30, 0x30, 0x30, 0x30] ∧ hexval4 (slice p 4 8) = some q ∧ decodeBody (bodyOf p) = .ack q) ∧
    (classify p = .busy q →
      slice p 0 4 = [0x30, 0x30, 0x30, 0x30] ∧ hexval4 (slice p 4 8) = some q ∧ decodeBody (bodyOf p) = .busy q) ∧
    (classify p = .error q code →
      slice p 0 4 = [0x30, 0x30, 0x30, 0x30] ∧ hexval4 (slice p 4 8) = some q ∧ code = slice p 8 12 ∧
      decodeBody (bodyOf p) = .error q code) ∧
    (classify p = .switch q st addr →
      slice p 0 4 = [0x30, 0x30, 0x30, 0x30] ∧ hexval4 (slice p 4 8) = some q ∧ addr = slice p 12 28 ∧
      (match st with
        | .on => slice p 8 12 = [0x30, 0x30, 0x44, 0x38] ∧ decodeBody (bodyOf p) = .switchOn q addr
        | .off => slice p 8 12 = [0x30, 0x30, 0x44, 0x45] ∧ decodeBody (bodyOf p) = .switchOff q addr)) ∧
    (classify p = .terminal op q →
      hexval4 (slice p 4 8) = some q ∧
      (match op with
        | .init => slice p 0 4 = [0x30, 0x30, 0x31, 0x31] ∧ decodeBody (bodyOf p) = .respInit q p
        | .power => slice p 0 4 = [0x30, 0x30, 0x31, 0x33] ∧ decodeBody (bodyOf p) = .respPower q p
        | .circle => slice p 0 4 = [0x30, 0x30, 0x31, 0x39] ∧ decodeBody (bodyOf p) = .respCircle q p
        | .status => slice p 0 4 = [0x30, 0x30, 0x32, 0x34] ∧ decodeBody (bodyOf p) = .respStatus q p
        | .calib => slice p 0 4 = [0x30, 0x30, 0x32, 0x37] ∧ decodeBody (bodyOf p) = .respCalib q p
        | .history => slice p 0 4 = [0x30, 0x30, 0x34, 0x39] ∧ decodeBody (bodyOf p) = .respHistory q p)) ∧
    (classify p = .unrecognized → decodeBody (bodyOf p) = .unrecognized p)

/-- R305, R317: what the scanner extracts always decodes to a well-formed received class. -/
def Obligations.ExtractedBodiesDecodeWellFormed : Prop :=
  ∀ (b body rest : Bytes), extractOne b = some (body, rest) → (decodeBody body).wf = true

/-- R203, R301: the four hex characters of a 16-bit value are HEXU, and the strings that read as the value are exactly those
that spell it in hex digits of either case: they are its rendering once `a` to `f` are written as capitals. -/
def Obligations.HexRenderingReadsBack : Prop :=
  ∀ v : BitVec 16, (hex4 v).length = 4 ∧ (∀ x ∈ hex4 v, isHexU x = true) ∧
    ∀ s : Bytes, hexval4 s = some v ↔
      s.map (fun b => if 0x61 ≤ b.toNat ∧ b.toNat ≤ 0x66 then b - 0x20 else b) = hex4 v

/-! ## The frame codec -/

/-- R100: the layout of an encoded frame. -/
def Obligations.EncodedFrameHasItsLayout : Prop :=
  ∀ p : Bytes,
    (encodeFrame p).length = p.length + 10 ∧
    slice (encodeFrame p) 0 4 = [0x05, 0x05, 0x03, 0x03] ∧
    slice (encodeFrame p) 4 (4 + p.length) = p ∧
    slice (encodeFrame p) (4 + p.length) (8 + p.length) = hex4 (crc16 p) ∧
    slice (encodeFrame p) (8 + p.length) (10 + p.length) = [0x0D, 0x0A]

/-- R161: extraction and verification undo encoding, for every payload of WORD bytes; for a payload that holds another byte
the round trip fails. -/
def Obligations.FramesOfWordPayloadsRoundTrip : Prop :=
  ∀ p : Bytes,
    ((∀ x ∈ p, isWord x = true) →
      extractOne (encodeFrame p) = some (p ++ hex4 (crc16 p), []) ∧ verify (p ++ hex4 (crc16 p)) = some p) ∧
    ((∃ x ∈ p, isWord x = false) → extractOne (encodeFrame p) ≠ some (p ++ hex4 (crc16 p), []))

/-- R158 (g): of two frames back to back the first is extracted, and what follows it stays, in order. -/
def Obligations.BytesAfterAFrameStay : Prop :=
  ∀ p rest : Bytes, (∀ x ∈ p, isWord x = true) →
    extractOne (encodeFrame p ++ rest) = some (p ++ hex4 (crc16 p), rest)

/-- R153, R154: `first_match` answers the match with the smallest start, which is also the one whose terminator arrived
first, and none exactly when there is no match; a start admits at most one end. -/
def Obligations.FirstMatchIsTheLeftmostMatch : Prop :=
  ∀ b : Bytes,
    (∀ i j, firstMatch b = some (i, j) →
      IsFrameMatch b i j ∧ ∀ i' j', IsFrameMatch b i' j' → i ≤ i' ∧ j ≤ j') ∧
    (firstMatch b = none → ∀ i j, ¬IsFrameMatch b i j) ∧
    (∀ i j j', IsFrameMatch b i j → IsFrameMatch b i j' → j = j')

/-- R156: an extraction removes everything from the start of the buffer through the terminator, and nothing else. -/
def Obligations.ExtractionRemovesThroughTheTerminator : Prop :=
  ∀ (b body rest : Bytes), extractOne b = some (body, rest) →
    body ≠ [] ∧ (∀ x ∈ body, isWord x = true) ∧ ∃ before, b = before ++ preamble ++ body ++ term ++ rest

/-! ## The checksum -/

/-- R207: the laws of crc16. (a) zero bytes before a string change nothing; (b) a string with its CRC bytes has CRC 0;
(c) linearity; (d) one flipped bit changes the CRC, and a body with one flipped bit does not verify. -/
def Obligations.CrcObeysItsLaws : Prop :=
  (∀ s : Bytes, crc16 (0x00 :: s) = crc16 s) ∧
  (∀ s : Bytes, crc16 (s ++ [(crc16 s).extractLsb' 8 8, (crc16 s).extractLsb' 0 8]) = 0) ∧
  (∀ s t : Bytes, s.length = t.length → crc16 (List.zipWith (· ^^^ ·) s t) = crc16 s ^^^ crc16 t) ∧
  (∀ (u v : Bytes) (x : Byte) (k : Nat), k < 8 →
    crc16 (u ++ (x ^^^ BitVec.twoPow 8 k) :: v) ≠ crc16 (u ++ x :: v)) ∧
  (∀ (u v : Bytes) (x : Byte) (k : Nat) (p : Bytes), k < 8 → verify (u ++ x :: v) = some p →
    verify (u ++ (x ^^^ BitVec.twoPow 8 k) :: v) = none)

/-! ## The host's commands -/

/-- R450: reset sets every element to its value, whether the RESET command or the reset pin performs it, and neither
transmits nor completes anything. (The host's list of results is the model's own field, log entry 3: RESET returns OK.) -/
def Obligations.ResetRestoresEveryElement : Prop :=
  (∀ s : State, s.pump = none →
    ∃ t, exec .reset s = .next t ∧
      t = { rxbuf := [], fifo := [], inflight := none, seqtab := [], pump := none, fatal := false, fault := none,
            out := s.out, replies := s.replies ++ [.ok], sched := s.sched, cfg := s.cfg } ∧
      qstate t = .idle ∧ statusWord t = 0x00000000 ∧ rxcountWord t = 0) ∧
  (∀ (s : State) (rest : List Action), s.sched = .resetPin :: rest →
    ∃ t, step s = .next t ∧
      t = { rxbuf := [], fifo := [], inflight := none, seqtab := [], pump := none, fatal := false, fault := none,
            out := s.out, replies := s.replies, sched := rest, cfg := s.cfg } ∧
      qstate t = .idle ∧ statusWord t = 0x00000000 ∧ rxcountWord t = 0)

/-- R251: SUBMIT, in every case: faulted, transport lost, payload too long, nothing in flight, room in the FIFO, no room. -/
def Obligations.SubmitFollowsItsRule : Prop :=
  ∀ (kind : Kind) (cb : Bool) (payload : Bytes) (s : State), s.pump = none →
    (s.fault ≠ none → exec (.submit kind cb payload) s = .next { s with replies := s.replies ++ [.faulted] }) ∧
    (s.fault = none → s.fatal = true →
      exec (.submit kind cb payload) s = .next { s with replies := s.replies ++ [.fatal] }) ∧
    (s.fault = none → s.fatal = false → ¬Fits payload.length s.cfg.maxPayload →
      exec (.submit kind cb payload) s =
        .next { s with fault := some .payloadTooLong, replies := s.replies ++ [.faulted] }) ∧
    (s.fault = none → s.fatal = false → Fits payload.length s.cfg.maxPayload → s.inflight = none →
      exec (.submit kind cb payload) s =
        .next { s with
          inflight := some { payload := payload, kind := kind, cb := cb }
          out := s.out ++ [.tx (encodeFrame payload)]
          replies := s.replies ++ [.ok] }) ∧
    (s.fault = none → s.fatal = false → Fits payload.length s.cfg.maxPayload → s.inflight ≠ none →
      HasRoom s.fifo.length s.cfg.qDepth →
      exec (.submit kind cb payload) s =
        .next { s with
          fifo := s.fifo ++ [{ payload := payload, kind := kind, cb := cb }]
          replies := s.replies ++ [.ok] }) ∧
    (s.fault = none → s.fatal = false → Fits payload.length s.cfg.maxPayload → s.inflight ≠ none →
      ¬HasRoom s.fifo.length s.cfg.qDepth →
      exec (.submit kind cb payload) s =
        .next { s with fault := some .queueOverflow, replies := s.replies ++ [.faulted] })

/-- R253, R254: CONNECT, in every case; the descriptor is INIT_DESC. -/
def Obligations.ConnectFollowsItsRule : Prop :=
  ∀ s : State, s.pump = none →
    (s.fault ≠ none → exec .connect s = .next { s with replies := s.replies ++ [.faulted] }) ∧
    (s.fault = none → s.fatal = true → exec .connect s = .next { s with replies := s.replies ++ [.fatal] }) ∧
    (s.fault = none → s.fatal = false → s.inflight = none →
      exec .connect s =
        .next { s with
          inflight := some { payload := [0x30, 0x30, 0x30, 0x41], kind := s.cfg.initKind, cb := false }
          out := s.out ++ [.tx (encodeFrame [0x30, 0x30, 0x30, 0x41])]
          replies := s.replies ++ [.ok] }) ∧
    (s.fault = none → s.fatal = false → s.inflight ≠ none → HasRoom s.fifo.length s.cfg.qDepth →
      exec .connect s =
        .next { s with
          fifo := s.fifo ++ [{ payload := [0x30, 0x30, 0x30, 0x41], kind := s.cfg.initKind, cb := false }]
          replies := s.replies ++ [.ok] }) ∧
    (s.fault = none → s.fatal = false → s.inflight ≠ none → ¬HasRoom s.fifo.length s.cfg.qDepth →
      exec .connect s = .next { s with fault := some .queueOverflow, replies := s.replies ++ [.faulted] })

/-- R353: PUMP opens its context and has no result yet; it returns FAULTED or FATAL at once where gated. -/
def Obligations.PumpCommandFollowsItsRule : Prop :=
  ∀ (tmo : Bool) (s : State), s.pump = none →
    (s.fault ≠ none → exec (.pump tmo) s = .next { s with replies := s.replies ++ [.faulted] }) ∧
    (s.fault = none → s.fatal = true → exec (.pump tmo) s = .next { s with replies := s.replies ++ [.fatal] }) ∧
    (s.fault = none → s.fatal = false → exec (.pump tmo) s = .next { s with pump := some { tmo := tmo, peek := none } })

/-- R360, with the layout of R43: STATUS returns the word whose fields are the control state, whatever `fault` and `fatal`
are, and changes nothing else. -/
def Obligations.StatusReturnsTheControlState : Prop :=
  ∀ s : State, s.pump = none →
    ∃ w : Word, exec .status s = .next { s with replies := s.replies ++ [.okWord w] } ∧
      w.extractLsb' 0 2 = (if s.inflight = none then 0 else if s.fifo = [] then 1 else 2) ∧
      w.getLsbD 2 = s.inflight.isSome ∧
      w.getLsbD 3 = s.fatal ∧
      w.getLsbD 4 = s.fault.isSome ∧
      w.extractLsb' 5 3 =
        (match s.fault with
          | none => 0
          | some .rxOverflow => 1
          | some .queueOverflow => 2
          | some .seqOverflow => 3
          | some .payloadTooLong => 4) ∧
      (w.extractLsb' 8 8).toNat = min s.fifo.length 255 ∧
      (w.extractLsb' 16 8).toNat = min s.seqtab.length 255 ∧
      w.extractLsb' 24 8 = 0

/-- R361, R44: RXCOUNT returns the number of bytes in the receive buffer, saturating, and changes nothing else. -/
def Obligations.RxcountReturnsTheBufferedBytes : Prop :=
  ∀ s : State, s.pump = none →
    ∃ w : Word, exec .rxcount s = .next { s with replies := s.replies ++ [.okWord w] } ∧
      w.toNat = min s.rxbuf.length (2 ^ 32 - 1)

/-- R206: CRC16, whatever `fault` and `fatal` are. -/
def Obligations.Crc16CommandFollowsItsRule : Prop :=
  ∀ (arg : Bytes) (s : State), s.pump = none →
    (Fits arg.length s.cfg.maxPayload →
      exec (.crc16 arg) s = .next { s with replies := s.replies ++ [.okCrc (crc16 arg) (hex4 (crc16 arg))] }) ∧
    (¬Fits arg.length s.cfg.maxPayload → exec (.crc16 arg) s = .next { s with replies := s.replies ++ [.illegal] })

/-- R111: the illegal words, and what issuing one does. (The schedule and the list of results are the model's own fields,
log entries 1 and 3.) -/
def Obligations.IllegalWordReturnsIllegalAndChangesNothing : Prop :=
  (∀ w : Word, (w.extractLsb' 0 8 = 0 ∨ 8 ≤ (w.extractLsb' 0 8).toNat) → ∀ r ∈ hostRows, w &&& r.mask ≠ r.pattern) ∧
  (∀ w : Word, ∀ r ∈ hostRows, w.extractLsb' 0 8 = r.pattern.extractLsb' 0 8 → w &&& r.mask ≠ r.pattern →
    ∀ r' ∈ hostRows, w &&& r'.mask ≠ r'.pattern) ∧
  (∀ (w : Word) (arg : Bytes) (rest : List Action) (s : State), s.sched = .host w arg :: rest → s.pump = none →
    (∀ r ∈ hostRows, w &&& r.mask ≠ r.pattern) →
    step s = .next { s with sched := rest, replies := s.replies ++ [.illegal] })

/-- R364: the three gated commands return FAULTED, or FATAL if there is no fault, and change nothing; the other four never
return either. -/
def Obligations.FaultAndFatalGateThreeCommands : Prop :=
  ∀ (s : State) (kind : Kind) (cb tmo : Bool) (bytes : Bytes), s.pump = none →
    (s.fault ≠ none → ∀ i ∈ [Instr.submit kind cb bytes, .connect, .pump tmo],
      exec i s = .next { s with replies := s.replies ++ [.faulted] }) ∧
    (s.fault = none → s.fatal = true → ∀ i ∈ [Instr.submit kind cb bytes, .connect, .pump tmo],
      exec i s = .next { s with replies := s.replies ++ [.fatal] }) ∧
    (∀ i ∈ [Instr.status, .rxcount, .crc16 bytes, .reset],
      ∃ t r, exec i s = .next t ∧ t.replies = s.replies ++ [r] ∧ r ≠ .faulted ∧ r ≠ .fatal)

/-- R352: during a PUMP the host issues nothing, so no host command has a transition (the model
stops with a fault of its own, log entry 4), while the reset pin stays enabled. -/
def Obligations.HostHasNoStepDuringAPump : Prop :=
  ∀ s : State, s.pump ≠ none →
    (∀ (kind : Kind) (cb tmo : Bool) (bytes : Bytes),
      ∀ i ∈ [Instr.reset, .connect, .submit kind cb bytes, .pump tmo, .status, .rxcount, .crc16 bytes],
        exec i s = .fault .hostBlocked) ∧
    (∀ rest, s.sched = .resetPin :: rest → ∃ t, step s = .next t ∧ t.pump = none ∧ t.out = s.out)

/-! ## Received classes -/

/-- R310: ACK records the entry and leaves every other key, and the lock, as they were; a full table faults instead. -/
def Obligations.AckRecordsItsSequenceNumber : Prop :=
  ∀ (q : Seq) (ctx : PumpCtx) (s : State), PumpReady ctx s →
    ((seqLookup q s.seqtab ≠ none ∨ HasRoom s.seqtab.length s.cfg.seqDepth) →
      ∃ tab, exec (.ack q) s = .next { s with seqtab := tab, pump := some { ctx with peek := some q } } ∧
        seqLookup q tab = some { kind := s.inflight.map (·.kind), receivedOk := true } ∧
        (∀ k, k ≠ q → seqLookup k tab = seqLookup k s.seqtab) ∧
        (SeqTab.wf s.seqtab → SeqTab.wf tab)) ∧
    (seqLookup q s.seqtab = none → ¬HasRoom s.seqtab.length s.cfg.seqDepth →
      exec (.ack q) s =
        .next { s with fault := some .seqOverflow, pump := none, out := s.out ++ [.result .faulted] })

/-- R315: BUSY enqueues INIT_DESC and returns REINIT; the lock and the table are as they were; a full FIFO faults. -/
def Obligations.BusyEnqueuesInit : Prop :=
  ∀ (q : Seq) (ctx : PumpCtx) (s : State), PumpReady ctx s →
    (s.inflight = none →
      exec (.busy q) s =
        .next { s with
          inflight := some { payload := [0x30, 0x30, 0x30, 0x41], kind := s.cfg.initKind, cb := false }
          pump := none
          out := s.out ++ [.tx (encodeFrame [0x30, 0x30, 0x30, 0x41]), .result (.reinit q)] }) ∧
    (s.inflight ≠ none → HasRoom s.fifo.length s.cfg.qDepth →
      exec (.busy q) s =
        .next { s with
          fifo := s.fifo ++ [{ payload := [0x30, 0x30, 0x30, 0x41], kind := s.cfg.initKind, cb := false }]
          pump := none
          out := s.out ++ [.result (.reinit q)] }) ∧
    (s.inflight ≠ none → ¬HasRoom s.fifo.length s.cfg.qDepth →
      exec (.busy q) s =
        .next { s with fault := some .queueOverflow, pump := none, out := s.out ++ [.result .faulted] })

/-- R311: the kind of a resolving frame: the table's, else that of the command in flight, else none. -/
def Obligations.KindLookupReadsTheTableFirst : Prop :=
  ∀ (q : Seq) (s : State),
    (∀ e, seqLookup q s.seqtab = some e → kindOf q s = e.kind) ∧
    (∀ d, seqLookup q s.seqtab = none → s.inflight = some d → kindOf q s = some d.kind) ∧
    (seqLookup q s.seqtab = none → s.inflight = none → kindOf q s = none)

/-- R312, R359: ERROR: the Completion with status ERROR, the next write, then the outcome with the command in flight, the
code and the kind; the entry is deleted. -/
def Obligations.ErrorResolvesWithTheCommandInFlight : Prop :=
  ∀ (q : Seq) (code : Bytes) (ctx : PumpCtx) (s : State), PumpReady ctx s →
    exec (.error q code) s =
      .next { s with
        seqtab := seqDelete q s.seqtab
        inflight := s.fifo.head?
        fifo := s.fifo.tail
        pump := none
        out := s.out ++ (completionEvents .error s.inflight ++ nextWriteEvents s.fifo ++
          [.result (.error q code s.inflight (kindOf q s))]) }

/-- R313, R359: SWITCH_ON and SWITCH_OFF resolve with status OK and pass the address on unchecked. -/
def Obligations.SwitchAcknowledgementsResolve : Prop :=
  ∀ (q : Seq) (addr : Bytes) (ctx : PumpCtx) (s : State), PumpReady ctx s →
    exec (.switchOn q addr) s = .next (resolvedState q .ok (.switched q .on addr (kindOf q s)) s) ∧
    exec (.switchOff q addr) s = .next (resolvedState q .ok (.switched q .off addr (kindOf q s)) s)

/-- R314, R359: the six terminal responses resolve with status OK and pass the whole payload on. -/
def Obligations.TerminalResponsesResolve : Prop :=
  ∀ (q : Seq) (p : Bytes) (ctx : PumpCtx) (s : State), PumpReady ctx s →
    exec (.respInit q p) s =
      .next (resolvedState q .ok (.response [0x30, 0x30, 0x31, 0x31] q (kindOf q s) p) s) ∧
    exec (.respPower q p) s =
      .next (resolvedState q .ok (.response [0x30, 0x30, 0x31, 0x33] q (kindOf q s) p) s) ∧
    exec (.respCircle q p) s =
      .next (resolvedState q .ok (.response [0x30, 0x30, 0x31, 0x39] q (kindOf q s) p) s) ∧
    exec (.respStatus q p) s =
      .next (resolvedState q .ok (.response [0x30, 0x30, 0x32, 0x34] q (kindOf q s) p) s) ∧
    exec (.respCalib q p) s =
      .next (resolvedState q .ok (.response [0x30, 0x30, 0x32, 0x37] q (kindOf q s) p) s) ∧
    exec (.respHistory q p) s =
      .next (resolvedState q .ok (.response [0x30, 0x30, 0x34, 0x39] q (kindOf q s) p) s)

/-- R257, R36: a resolving class deletes its own key and leaves every other. -/
def Obligations.ResolvingDeletesOnlyItsKey : Prop :=
  ∀ (i : Instr) (q : Seq) (bytes : Bytes) (ctx : PumpCtx) (s : State), PumpReady ctx s →
    i ∈ [Instr.error q bytes, .switchOn q bytes, .switchOff q bytes, .respInit q bytes, .respPower q bytes,
      .respCircle q bytes, .respStatus q bytes, .respCalib q bytes, .respHistory q bytes] →
    ∃ t, exec i s = .next t ∧ seqLookup q t.seqtab = none ∧
      (∀ k, k ≠ q → seqLookup k t.seqtab = seqLookup k s.seqtab) ∧
      (SeqTab.wf s.seqtab → SeqTab.wf t.seqtab)

/-- R316: UNRECOGNIZED gives NO_DATA and changes nothing else. -/
def Obligations.UnrecognizedGivesNoData : Prop :=
  ∀ (p : Bytes) (ctx : PumpCtx) (s : State), PumpReady ctx s →
    exec (.unrecognized p) s = .next { s with pump := none, out := s.out ++ [.result (.noData p)] }

/-- R317: a body that does not verify is a CRC_ERROR, whatever else it holds; it gives CRC_ERROR and changes nothing else. -/
def Obligations.ChecksumMismatchGivesCrcError : Prop :=
  (∀ body : Bytes, verify body = none → decodeBody body = .crcError body) ∧
  ∀ (body : Bytes) (ctx : PumpCtx) (s : State), PumpReady ctx s →
    exec (.crcError body) s = .next { s with pump := none, out := s.out ++ [.result (.crcError body)] }

/-! ## Outbound rows -/

/-- R252, R254: INIT, as PWLINK enqueues it. That the table's row INIT is run as an instruction of its own is the model's
choice (log entry 5). -/
def Obligations.InitIsEnqueued : Prop :=
  ∀ s : State, s.fault = none → s.fatal = false →
    (s.inflight = none →
      exec .init s =
        .next { s with
          inflight := some { payload := [0x30, 0x30, 0x30, 0x41], kind := s.cfg.initKind, cb := false }
          out := s.out ++ [.tx (encodeFrame [0x30, 0x30, 0x30, 0x41])] }) ∧
    (s.inflight ≠ none → HasRoom s.fifo.length s.cfg.qDepth →
      exec .init s =
        .next { s with
          fifo := s.fifo ++ [{ payload := [0x30, 0x30, 0x30, 0x41], kind := s.cfg.initKind, cb := false }] }) ∧
    (s.inflight ≠ none → ¬HasRoom s.fifo.length s.cfg.qDepth → s.pump = none →
      exec .init s = .next { s with fault := some .queueOverflow }) ∧
    (s.inflight ≠ none → ¬HasRoom s.fifo.length s.cfg.qDepth → s.pump ≠ none →
      exec .init s =
        .next { s with fault := some .queueOverflow, pump := none, out := s.out ++ [.result .faulted] })

/-- R151, R255: FRAME sends the payload between preamble and checksum, whole, and changes nothing else. That the table's row
FRAME is run as the transport write is the model's choice (log entry 5). -/
def Obligations.FrameIsSentWhole : Prop :=
  ∀ (p : Bytes) (s : State), s.fault = none → s.fatal = false →
    exec (.frame p) s =
      .next { s with
        out := s.out ++ [.tx ([0x05, 0x05, 0x03, 0x03] ++ p ++ hex4 (crc16 p) ++ [0x0D, 0x0A])] }

/-! ## Transport and pump engine -/

/-- R365: RX_DELIVER appends, or loses the byte while `fault` or `fatal` is set, or faults on a full buffer; a fault ends an
active PUMP (R404). -/
def Obligations.RxDeliverFollowsItsRule : Prop :=
  ∀ (b : Byte) (s : State),
    ((s.fault ≠ none ∨ s.fatal = true) → exec (.rxDeliver b) s = .next s) ∧
    (s.fault = none → s.fatal = false → HasRoom s.rxbuf.length s.cfg.rxDepth →
      exec (.rxDeliver b) s = .next { s with rxbuf := s.rxbuf ++ [b] }) ∧
    (s.fault = none → s.fatal = false → ¬HasRoom s.rxbuf.length s.cfg.rxDepth → s.pump = none →
      exec (.rxDeliver b) s = .next { s with fault := some .rxOverflow }) ∧
    (s.fault = none → s.fatal = false → ¬HasRoom s.rxbuf.length s.cfg.rxDepth → s.pump ≠ none →
      exec (.rxDeliver b) s =
        .next { s with fault := some .rxOverflow, pump := none, out := s.out ++ [.result .faulted] })

/-- R366: LINK_FAIL sets `fatal` and keeps everything else; R350 enables it while `fatal` is false, and where it is not
enabled the model stops (log entry 4). -/
def Obligations.LinkFailSetsFatalOnly : Prop :=
  ∀ s : State,
    (s.fatal = false → exec .linkFail s = .next { s with fatal := true }) ∧
    (s.fatal = true → exec .linkFail s = .fault .linkAlreadyFailed)

/-- R354, R405: one pump iteration: FAULTED, FATAL, the extracted frame's instruction on the buffer without the frame, the
end of a peek; where none of these holds PSTEP has no transition, and the model stops (log entry 4). -/
def Obligations.PumpStepFollowsItsRule : Prop :=
  ∀ (ctx : PumpCtx) (s : State), s.pump = some ctx →
    (s.fault ≠ none → exec .pstep s = .next { s with pump := none, out := s.out ++ [.result .faulted] }) ∧
    (s.fault = none → s.fatal = true →
      exec .pstep s = .next { s with pump := none, out := s.out ++ [.result .fatal] }) ∧
    (s.fault = none → s.fatal = false → ∀ body rest, extractOne s.rxbuf = some (body, rest) →
      exec .pstep s = exec (decodeBody body) { s with rxbuf := rest }) ∧
    (s.fault = none → s.fatal = false → extractOne s.rxbuf = none → ∀ q, ctx.peek = some q →
      exec .pstep s = .next { s with pump := none, out := s.out ++ [.result (.ack q)] }) ∧
    (s.fault = none → s.fatal = false → extractOne s.rxbuf = none → ctx.peek = none →
      exec .pstep s = .fault .pumpNotEnabled)

/-- R350: PSTEP answers a next state in exactly the states that enable it (elsewhere the model stops, log entry 4). -/
def Obligations.PumpStepRunsExactlyWhereEnabled : Prop :=
  ∀ s : State,
    (∃ t, exec .pstep s = .next t) ↔
      ∃ ctx, s.pump = some ctx ∧
        (extractOne s.rxbuf ≠ none ∨ ctx.peek ≠ none ∨ s.fatal = true ∨ s.fault ≠ none)

/-- R355, R350: TIMEOUT finishes with NONE and changes nothing else, in exactly the states that enable it; elsewhere the
model stops (log entry 4). -/
def Obligations.TimeoutFinishesWithNone : Prop :=
  ∀ s : State,
    ((s.pump = some { tmo := true, peek := none } ∧ extractOne s.rxbuf = none ∧ s.fatal = false ∧ s.fault = none) →
      exec .timeout s = .next { s with pump := none, out := s.out ++ [.result .none] }) ∧
    (¬(s.pump = some { tmo := true, peek := none } ∧ extractOne s.rxbuf = none ∧ s.fatal = false ∧ s.fault = none) →
      exec .timeout s = .fault .timeoutNotEnabled)

/-- A step runs the decoded instruction: the scheduled step is taken off the schedule and decoded, and its instruction runs;
a command word that decodes to nothing is issued as illegal; the reset pin resets; with nothing scheduled the pump engine
moves where R350 enables it, and otherwise nothing changes. The schedule is the model's own field (log entry 1). -/
def Obligations.StepRunsTheDecodedInstruction : Prop :=
  ∀ s : State,
    (∀ a rest c i, s.sched = a :: rest → actionCode a = some c → decode c = .ok i →
      step s = exec i { s with sched := rest }) ∧
    (∀ a rest c r, s.sched = a :: rest → actionCode a = some c → decode c = .reject r →
      step s = issueIllegal { s with sched := rest }) ∧
    (∀ rest, s.sched = .resetPin :: rest → step s = .next (resetBlock { s with sched := rest })) ∧
    (s.sched = [] → pstepEnabled s = true → step s = exec .pstep s) ∧
    (s.sched = [] → pstepEnabled s = false → step s = .next s)

/-! ## The queue -/

/-- R260: the transitions of the queue state, with n the length of the FIFO, and what each puts on the trace. (An overflow
puts no output of the queue there; the Result is that of the PUMP the fault ends, R404.) -/
def Obligations.QueueStateFollowsItsTable : Prop :=
  ∀ (d : Descriptor) (st : CStatus) (s : State), (s.inflight = none → s.fifo = []) →
    (qstate s = .idle → ∃ t, enqueue d s = .go t ∧ qstate t = .writing ∧
      t.out = s.out ++ [.tx (encodeFrame d.payload)]) ∧
    (qstate s ≠ .idle → HasRoom s.fifo.length s.cfg.qDepth →
      ∃ t, enqueue d s = .go t ∧ qstate t = .waitingQueued ∧ t.fifo.length = s.fifo.length + 1 ∧ t.out = s.out) ∧
    (qstate s ≠ .idle → ¬HasRoom s.fifo.length s.cfg.qDepth →
      ∃ t, enqueue d s = .stop t ∧ qstate t = qstate s ∧ t.fifo = s.fifo ∧ t.fault = some .queueOverflow ∧
        t.out = s.out ++ (if s.pump = none then [] else [.result .faulted])) ∧
    (qstate s = .writing → qstate (onResolved st s) = .idle ∧
      (onResolved st s).out = s.out ++ completionEvents st s.inflight) ∧
    (qstate s = .waitingQueued → s.fifo.length = 1 → qstate (onResolved st s) = .writing) ∧
    (qstate s = .waitingQueued → 2 ≤ s.fifo.length →
      qstate (onResolved st s) = .waitingQueued ∧ (onResolved st s).fifo.length + 1 = s.fifo.length) ∧
    (qstate s = .waitingQueued → ∀ h t, s.fifo = h :: t →
      (onResolved st s).out = s.out ++ completionEvents st s.inflight ++ [.tx (encodeFrame h.payload)]) ∧
    (qstate s = .idle → qstate (onResolved st s) = .idle ∧ (onResolved st s).out = s.out) ∧
    (qstate (resetBlock s) = .idle ∧ (resetBlock s).out = s.out)

/-- R260: only its events change the queue state, namely `enqueue`, `on_resolved` and reset; every other step leaves it. (The
next step is read off the schedule, the model's own field, log entry 1.) -/
def Obligations.QueueStateChangesOnlyOnItsEvents : Prop :=
  ∀ s t : State, step s = .next t → ¬ResetIsNext s → (∀ d, ¬EnqueueIsNext d s) → ¬ResolvingStepIsNext s →
    qstate t = qstate s ∧ t.inflight = s.inflight ∧ t.fifo = s.fifo

/-- R261: three SUBMITs from IDLE write exactly the first frame; a terminal response pumped then writes exactly the second,
and the third waits. -/
def Obligations.ThreeCommandsAreWrittenOneByOne : Prop :=
  ∀ (d1 d2 d3 : Descriptor) (ctx : PumpCtx) (q : Seq) (p : Bytes) (s : State),
    HostReady s → s.inflight = none → s.fifo = [] → HasRoom 1 s.cfg.qDepth →
    (∀ d ∈ [d1, d2, d3], Fits d.payload.length s.cfg.maxPayload) →
    ∃ t1 t2 t3,
      exec (.submit d1.kind d1.cb d1.payload) s = .next t1 ∧
      exec (.submit d2.kind d2.cb d2.payload) t1 = .next t2 ∧
      exec (.submit d3.kind d3.cb d3.payload) t2 = .next t3 ∧
      sentFrames t3.out = sentFrames s.out ++ [encodeFrame d1.payload] ∧ t3.inflight = some d1 ∧ t3.fifo = [d2, d3] ∧
      ∀ i ∈ [Instr.respInit q p, .respPower q p, .respCircle q p, .respStatus q p, .respCalib q p, .respHistory q p],
        ∃ t4, exec i { t3 with pump := some ctx } = .next t4 ∧
          sentFrames t4.out = sentFrames s.out ++ [encodeFrame d1.payload, encodeFrame d2.payload] ∧
          t4.inflight = some d2 ∧ t4.fifo = [d3]

/-! ## Invariants and whole-machine rules -/

/-- At power-on, with any legal parameters, the invariant holds; so it does in the model's reset state, whose parameters are
the model's choice (log entry 2). -/
def Obligations.PowerOnMeetsTheInvariant : Prop :=
  (∀ p : Params, p.legal = true → (State.resetWith p).Inv) ∧ State.reset.Inv

/-- The invariant of R31 to R39 and R404: every step keeps it. -/
def Obligations.StepKeepsTheInvariant : Prop :=
  ∀ s t : State, s.Inv → step s = .next t → t.Inv

/-- R35: after every transition, no command waits while nothing is in flight. -/
def Obligations.NoCommandWaitsWhileNothingIsInFlight : Prop :=
  ∀ s t : State, (s.inflight = none → s.fifo = []) → step s = .next t → t.inflight = none → t.fifo = []

/-- R40: every transition appends to the trace and leaves what is there. (So does the model's list of results, log
entry 3.) -/
def Obligations.TraceIsAppendOnly : Prop :=
  ∀ s t : State, step s = .next t →
    (∃ evs, t.out = s.out ++ evs) ∧ (∃ rs, t.replies = s.replies ++ rs ∧ rs.length ≤ 1)

/-- R39: `fatal` and `fault` are sticky: no transition clears them, or changes the cause, except reset. -/
def Obligations.StickyBitsLastUntilReset : Prop :=
  ∀ s t : State, step s = .next t → ¬ResetIsNext s →
    (s.fatal = true → t.fatal = true) ∧ (∀ c, s.fault = some c → t.fault = some c)

/-- R258: the command in flight stays in flight through every instruction but a resolving class and RESET. -/
def Obligations.LockIsHeldUntilAResolvingFrame : Prop :=
  ∀ (i : Instr) (s t : State) (d : Descriptor), exec i s = .next t → s.inflight = some d → ¬ReleasesLock i s →
    t.inflight = some d

/-- R259, R34: a step writes at most one frame, that of the command it leaves in flight, and only when nothing was in flight
or the step is a pump step of an active PUMP on a frame that releases the lock. (The next step is read off the schedule, the
model's own field, log entry 1.) -/
def Obligations.AStepWritesAtMostOneFrame : Prop :=
  ∀ s t : State, step s = .next t →
    ∃ fs, sentFrames t.out = sentFrames s.out ++ fs ∧
      (fs = [] ∨ ∃ d, t.inflight = some d ∧ fs = [encodeFrame d.payload] ∧
        (s.inflight = none ∨ ResolvingStepIsNext s))

/-- R259: the frames sent, followed by the frames that wait, only grow at the end, and only by the frame of a descriptor that
the step enqueues: commands reach the wire in the order SUBMIT, CONNECT and BUSY enqueued them, and no frame is sent a second
time. (The next step is read off the schedule, the model's own field, log entry 1.) -/
def Obligations.CommandsReachTheWireInOrder : Prop :=
  ∀ s t : State, (s.inflight = none → s.fifo = []) → step s = .next t → ¬ResetIsNext s →
    ∃ fs, sentFrames t.out ++ waitingFrames t = sentFrames s.out ++ waitingFrames s ++ fs ∧
      (fs = [] ∨ ∃ d, EnqueueIsNext d s ∧ fs = [encodeFrame d.payload])

/-- R402: transport loss. LINK_FAIL sets `fatal`; it stays set until reset; a PUMP in progress finishes with FATAL; the gated
commands return FATAL; nothing is sent any more. -/
def Obligations.TransportLossIsFinal : Prop :=
  (∀ s : State, s.fatal = false → ∃ t, exec .linkFail s = .next t ∧ t.fatal = true) ∧
  (∀ s t : State, s.fatal = true → step s = .next t → ¬ResetIsNext s →
    t.fatal = true ∧ sentFrames t.out = sentFrames s.out) ∧
  (∀ s : State, s.fatal = true → s.fault = none → s.pump ≠ none →
    exec .pstep s = .next { s with pump := none, out := s.out ++ [.result .fatal] }) ∧
  (∀ (s : State) (kind : Kind) (cb tmo : Bool) (bytes : Bytes), s.fatal = true → s.fault = none → s.pump = none →
    ∀ i ∈ [Instr.submit kind cb bytes, .connect, .pump tmo],
      exec i s = .next { s with replies := s.replies ++ [.fatal] })

/-- R404: a step that faults does so at the capacity its cause names, and ends an active PUMP; the queue, the lock and the
table are as they were. -/
def Obligations.FaultsOccurOnlyAtTheirCapacities : Prop :=
  ∀ (s t : State) (c : FaultCause), s.Inv → s.fault = none → step s = .next t → t.fault = some c →
    t.pump = none ∧ t.inflight = s.inflight ∧ t.fifo = s.fifo ∧ t.seqtab = s.seqtab ∧
    (match c with
      | .rxOverflow => s.cfg.rxDepth = some s.rxbuf.length
      | .queueOverflow => s.inflight ≠ none ∧ s.cfg.qDepth = some s.fifo.length
      | .seqOverflow => s.cfg.seqDepth = some s.seqtab.length
      | .payloadTooLong =>
        ∃ w arg rest m, s.sched = .host w arg :: rest ∧ s.cfg.maxPayload = some m ∧ m < arg.length)

/-- R8, R404: with every capacity INF no capacity fault occurs. -/
def Obligations.NoFaultOccursWithUnboundedCapacities : Prop :=
  ∀ s t : State, Unbounded s.cfg → s.fault = none → step s = .next t → t.fault = none

/-- R356: a PUMP gives its Result in the step that ends it, and no other step gives one; a PUMP that a reset ends gives none
(R451). -/
def Obligations.APumpGivesItsResultWhenItEnds : Prop :=
  ∀ s t : State, step s = .next t →
    ((s.pump ≠ none ∧ t.pump = none ∧ ¬ResetIsNext s) → ∃ evs o, t.out = s.out ++ evs ++ [.result o]) ∧
    ((s.pump = none ∨ t.pump ≠ none ∨ ResetIsNext s) → ∀ o, Event.result o ∉ t.out.drop s.out.length)

/-- The model's own fields: no transition changes the parameters, and each takes one entry off the schedule (log entries 1
and 2). -/
def Obligations.StepKeepsParametersAndTakesOneEntry : Prop :=
  ∀ s t : State, step s = .next t → t.cfg = s.cfg ∧ t.sched = s.sched.tail

/-- R354, R457: when the environment is quiet, a PUMP that has anything to do finishes: within as many steps as `rxbuf` has
bytes, and one more, it gives its Result. (That the pump engine moves where nothing is scheduled is the model's choice, log
entry 1.) -/
def Obligations.AnEnabledPumpFinishes : Prop :=
  ∀ (s : State) (ctx : PumpCtx), s.sched = [] → s.pump = some ctx →
    (extractOne s.rxbuf ≠ none ∨ ctx.peek ≠ none ∨ s.fatal = true ∨ s.fault ≠ none) →
    ∃ (n : Nat) (t : State) (evs : List Event) (o : PumpOutcome), n ≤ s.rxbuf.length + 1 ∧
      run n s = .next t ∧ t.pump = none ∧ t.out = s.out ++ evs ++ [.result o]

end
end

