-- ==== Sys2Proof/Laws/State.lean ====
section
/-! SUPPORT. One lemma per field for each update of the state: `emit`, `reply`, `finish`, `transmit`, `write`, `raiseFault`,
`complete` and `resetBlock` (all of them change only the fields their rules name). -/

namespace Sys2Proof.Machine

@[simp] theorem emit_rxbuf (ev : Event) (s : State) : (emit ev s).rxbuf = s.rxbuf := rfl
@[simp] theorem emit_fifo (ev : Event) (s : State) : (emit ev s).fifo = s.fifo := rfl
@[simp] theorem emit_inflight (ev : Event) (s : State) : (emit ev s).inflight = s.inflight := rfl
@[simp] theorem emit_seqtab (ev : Event) (s : State) : (emit ev s).seqtab = s.seqtab := rfl
@[simp] theorem emit_pump (ev : Event) (s : State) : (emit ev s).pump = s.pump := rfl
@[simp] theorem emit_fatal (ev : Event) (s : State) : (emit ev s).fatal = s.fatal := rfl
@[simp] theorem emit_fault (ev : Event) (s : State) : (emit ev s).fault = s.fault := rfl
@[simp] theorem emit_out (ev : Event) (s : State) : (emit ev s).out = s.out ++ [ev] := rfl
@[simp] theorem emit_replies (ev : Event) (s : State) : (emit ev s).replies = s.replies := rfl
@[simp] theorem emit_sched (ev : Event) (s : State) : (emit ev s).sched = s.sched := rfl
@[simp] theorem emit_cfg (ev : Event) (s : State) : (emit ev s).cfg = s.cfg := rfl

@[simp] theorem reply_rxbuf (r : HostResult) (s : State) : (reply r s).rxbuf = s.rxbuf := rfl
@[simp] theorem reply_fifo (r : HostResult) (s : State) : (reply r s).fifo = s.fifo := rfl
@[simp] theorem reply_inflight (r : HostResult) (s : State) : (reply r s).inflight = s.inflight := rfl
@[simp] theorem reply_seqtab (r : HostResult) (s : State) : (reply r s).seqtab = s.seqtab := rfl
@[simp] theorem reply_pump (r : HostResult) (s : State) : (reply r s).pump = s.pump := rfl
@[simp] theorem reply_fatal (r : HostResult) (s : State) : (reply r s).fatal = s.fatal := rfl
@[simp] theorem reply_fault (r : HostResult) (s : State) : (reply r s).fault = s.fault := rfl
@[simp] theorem reply_out (r : HostResult) (s : State) : (reply r s).out = s.out := rfl
@[simp] theorem reply_replies (r : HostResult) (s : State) : (reply r s).replies = s.replies ++ [r] := rfl
@[simp] theorem reply_sched (r : HostResult) (s : State) : (reply r s).sched = s.sched := rfl
@[simp] theorem reply_cfg (r : HostResult) (s : State) : (reply r s).cfg = s.cfg := rfl

@[simp] theorem finish_rxbuf (o : PumpOutcome) (s : State) : (finish o s).rxbuf = s.rxbuf := rfl
@[simp] theorem finish_fifo (o : PumpOutcome) (s : State) : (finish o s).fifo = s.fifo := rfl
@[simp] theorem finish_inflight (o : PumpOutcome) (s : State) : (finish o s).inflight = s.inflight := rfl
@[simp] theorem finish_seqtab (o : PumpOutcome) (s : State) : (finish o s).seqtab = s.seqtab := rfl
@[simp] theorem finish_pump (o : PumpOutcome) (s : State) : (finish o s).pump = none := rfl
@[simp] theorem finish_fatal (o : PumpOutcome) (s : State) : (finish o s).fatal = s.fatal := rfl
@[simp] theorem finish_fault (o : PumpOutcome) (s : State) : (finish o s).fault = s.fault := rfl
@[simp] theorem finish_out (o : PumpOutcome) (s : State) : (finish o s).out = s.out ++ [.result o] := rfl
@[simp] theorem finish_replies (o : PumpOutcome) (s : State) : (finish o s).replies = s.replies := rfl
@[simp] theorem finish_sched (o : PumpOutcome) (s : State) : (finish o s).sched = s.sched := rfl
@[simp] theorem finish_cfg (o : PumpOutcome) (s : State) : (finish o s).cfg = s.cfg := rfl

@[simp] theorem transmit_rxbuf (p : Bytes) (s : State) : (transmit p s).rxbuf = s.rxbuf := rfl
@[simp] theorem transmit_fifo (p : Bytes) (s : State) : (transmit p s).fifo = s.fifo := rfl
@[simp] theorem transmit_inflight (p : Bytes) (s : State) : (transmit p s).inflight = s.inflight := rfl
@[simp] theorem transmit_seqtab (p : Bytes) (s : State) : (transmit p s).seqtab = s.seqtab := rfl
@[simp] theorem transmit_pump (p : Bytes) (s : State) : (transmit p s).pump = s.pump := rfl
@[simp] theorem transmit_fatal (p : Bytes) (s : State) : (transmit p s).fatal = s.fatal := rfl
@[simp] theorem transmit_fault (p : Bytes) (s : State) : (transmit p s).fault = s.fault := rfl
@[simp] theorem transmit_out (p : Bytes) (s : State) : (transmit p s).out = s.out ++ [.tx (encodeFrame p)] := rfl
@[simp] theorem transmit_replies (p : Bytes) (s : State) : (transmit p s).replies = s.replies := rfl
@[simp] theorem transmit_sched (p : Bytes) (s : State) : (transmit p s).sched = s.sched := rfl
@[simp] theorem transmit_cfg (p : Bytes) (s : State) : (transmit p s).cfg = s.cfg := rfl

@[simp] theorem write_rxbuf (d : Descriptor) (s : State) : (write d s).rxbuf = s.rxbuf := rfl
@[simp] theorem write_fifo (d : Descriptor) (s : State) : (write d s).fifo = s.fifo := rfl
@[simp] theorem write_inflight (d : Descriptor) (s : State) : (write d s).inflight = some d := rfl
@[simp] theorem write_seqtab (d : Descriptor) (s : State) : (write d s).seqtab = s.seqtab := rfl
@[simp] theorem write_pump (d : Descriptor) (s : State) : (write d s).pump = s.pump := rfl
@[simp] theorem write_fatal (d : Descriptor) (s : State) : (write d s).fatal = s.fatal := rfl
@[simp] theorem write_fault (d : Descriptor) (s : State) : (write d s).fault = s.fault := rfl
@[simp] theorem write_out (d : Descriptor) (s : State) : (write d s).out = s.out ++ [.tx (encodeFrame d.payload)] := rfl
@[simp] theorem write_replies (d : Descriptor) (s : State) : (write d s).replies = s.replies := rfl
@[simp] theorem write_sched (d : Descriptor) (s : State) : (write d s).sched = s.sched := rfl
@[simp] theorem write_cfg (d : Descriptor) (s : State) : (write d s).cfg = s.cfg := rfl

@[simp] theorem resetBlock_rxbuf (s : State) : (resetBlock s).rxbuf = [] := rfl
@[simp] theorem resetBlock_fifo (s : State) : (resetBlock s).fifo = [] := rfl
@[simp] theorem resetBlock_inflight (s : State) : (resetBlock s).inflight = none := rfl
@[simp] theorem resetBlock_seqtab (s : State) : (resetBlock s).seqtab = [] := rfl
@[simp] theorem resetBlock_pump (s : State) : (resetBlock s).pump = none := rfl
@[simp] theorem resetBlock_fatal (s : State) : (resetBlock s).fatal = false := rfl
@[simp] theorem resetBlock_fault (s : State) : (resetBlock s).fault = none := rfl
@[simp] theorem resetBlock_out (s : State) : (resetBlock s).out = s.out := rfl
@[simp] theorem resetBlock_replies (s : State) : (resetBlock s).replies = s.replies := rfl
@[simp] theorem resetBlock_sched (s : State) : (resetBlock s).sched = s.sched := rfl
@[simp] theorem resetBlock_cfg (s : State) : (resetBlock s).cfg = s.cfg := rfl

@[simp] theorem raiseFault_rxbuf (c : FaultCause) (s : State) : (raiseFault c s).rxbuf = s.rxbuf := by
  unfold raiseFault; split <;> rfl
@[simp] theorem raiseFault_fifo (c : FaultCause) (s : State) : (raiseFault c s).fifo = s.fifo := by
  unfold raiseFault; split <;> rfl
@[simp] theorem raiseFault_inflight (c : FaultCause) (s : State) : (raiseFault c s).inflight = s.inflight := by
  unfold raiseFault; split <;> rfl
@[simp] theorem raiseFault_seqtab (c : FaultCause) (s : State) : (raiseFault c s).seqtab = s.seqtab := by
  unfold raiseFault; split <;> rfl
@[simp] theorem raiseFault_fatal (c : FaultCause) (s : State) : (raiseFault c s).fatal = s.fatal := by
  unfold raiseFault; split <;> rfl
@[simp] theorem raiseFault_fault (c : FaultCause) (s : State) : (raiseFault c s).fault = some c := by
  unfold raiseFault; split <;> rfl
@[simp] theorem raiseFault_replies (c : FaultCause) (s : State) : (raiseFault c s).replies = s.replies := by
  unfold raiseFault; split <;> rfl
@[simp] theorem raiseFault_sched (c : FaultCause) (s : State) : (raiseFault c s).sched = s.sched := by
  unfold raiseFault; split <;> rfl
@[simp] theorem raiseFault_cfg (c : FaultCause) (s : State) : (raiseFault c s).cfg = s.cfg := by
  unfold raiseFault; split <;> rfl
@[simp] theorem raiseFault_pump (c : FaultCause) (s : State) : (raiseFault c s).pump = none := by
  unfold raiseFault; split
  · rfl
  · rename_i h; simpa using h
theorem raiseFault_out (c : FaultCause) (s : State) :
    (raiseFault c s).out = s.out ++ if s.pump.isSome then [.result .faulted] else [] := by
  unfold raiseFault; split <;> simp

@[simp] theorem complete_rxbuf (st : CStatus) (s : State) : (complete st s).rxbuf = s.rxbuf := by
  unfold complete; split
  · split <;> rfl
  · rfl
@[simp] theorem complete_fifo (st : CStatus) (s : State) : (complete st s).fifo = s.fifo := by
  unfold complete; split
  · split <;> rfl
  · rfl
@[simp] theorem complete_inflight (st : CStatus) (s : State) : (complete st s).inflight = s.inflight := by
  unfold complete; split
  · split <;> rfl
  · rfl
@[simp] theorem complete_seqtab (st : CStatus) (s : State) : (complete st s).seqtab = s.seqtab := by
  unfold complete; split
  · split <;> rfl
  · rfl
@[simp] theorem complete_pump (st : CStatus) (s : State) : (complete st s).pump = s.pump := by
  unfold complete; split
  · split <;> rfl
  · rfl
@[simp] theorem complete_fatal (st : CStatus) (s : State) : (complete st s).fatal = s.fatal := by
  unfold complete; split
  · split <;> rfl
  · rfl
@[simp] theorem complete_fault (st : CStatus) (s : State) : (complete st s).fault = s.fault := by
  unfold complete; split
  · split <;> rfl
  · rfl
@[simp] theorem complete_replies (st : CStatus) (s : State) : (complete st s).replies = s.replies := by
  unfold complete; split
  · split <;> rfl
  · rfl
@[simp] theorem complete_sched (st : CStatus) (s : State) : (complete st s).sched = s.sched := by
  unfold complete; split
  · split <;> rfl
  · rfl
@[simp] theorem complete_cfg (st : CStatus) (s : State) : (complete st s).cfg = s.cfg := by
  unfold complete; split
  · split <;> rfl
  · rfl
@[simp] theorem complete_out (st : CStatus) (s : State) :
    (complete st s).out = s.out ++ completionEvents st s.inflight := by
  unfold complete completionEvents; split <;> rename_i h
  · rw [h]; split <;> simp [*]
  · rw [h]; simp

end Sys2Proof.Machine
end

