-- ==== Sys2Proof/Laws/Ops.lean ====
section
/-! SUPPORT. One lemma for each shared operation, which says once everything it can do; statements about the instructions
cite these instead of unfolding the operation. -/

namespace Sys2Proof.Machine

/-- `exceeds` is the failure of `Fits`. -/
theorem exceeds_eq_false_iff (n : Nat) (c : Capacity) : exceeds n c = false ↔ Fits n c := by
  cases c <;> simp [exceeds, Fits]

/-- `isFull` is the failure of `HasRoom`. -/
theorem isFull_eq_false_iff (n : Nat) (c : Capacity) : isFull n c = false ↔ HasRoom n c := by
  cases c <;> simp [isFull, HasRoom]

theorem exceeds_eq_true_iff (n : Nat) (c : Capacity) : exceeds n c = true ↔ ¬Fits n c := by
  rw [← exceeds_eq_false_iff]; simp

theorem isFull_eq_true_iff (n : Nat) (c : Capacity) : isFull n c = true ↔ ¬HasRoom n c := by
  rw [← isFull_eq_false_iff]; simp

/-- A host command answers a next state exactly when no PUMP is active. -/
theorem hostCall_eq_next_iff (body : State → State) (s t : State) :
    hostCall body s = .next t ↔ s.pump = none ∧ body s = t := by
  unfold hostCall; cases h : s.pump <;> simp

theorem hostCall_of_free (body : State → State) {s : State} (h : s.pump = none) :
    hostCall body s = .next (body s) := by
  unfold hostCall; rw [h]

theorem hostCall_of_pump (body : State → State) {s : State} (h : s.pump ≠ none) :
    hostCall body s = .fault .hostBlocked := by
  unfold hostCall; cases hp : s.pump
  · exact absurd hp h
  · rfl

/-- The gate: three cases, in the order of R405. -/
theorem gated_cases (body : State → State) (s : State) :
    (s.fault ≠ none ∧ gated body s = reply .faulted s) ∨
    (s.fault = none ∧ s.fatal = true ∧ gated body s = reply .fatal s) ∨
    (s.fault = none ∧ s.fatal = false ∧ gated body s = body s) := by
  unfold gated; cases hf : s.fault <;> cases hg : s.fatal <;> simp

theorem gated_of_ready (body : State → State) {s : State} (hf : s.fault = none) (hg : s.fatal = false) :
    gated body s = body s := by
  simp [gated, hf, hg]

/-- A received class answers a next state exactly inside a pump step. -/
theorem inPumpStep_eq_next_iff (body : PumpCtx → State → State) (s t : State) :
    inPumpStep body s = .next t ↔ ∃ ctx, PumpReady ctx s ∧ body ctx s = t := by
  unfold inPumpStep PumpReady
  cases hp : s.pump <;> cases hf : s.fault <;> cases hg : s.fatal <;> simp

theorem inPumpStep_of_ready (body : PumpCtx → State → State) {ctx : PumpCtx} {s : State} (h : PumpReady ctx s) :
    inPumpStep body s = .next (body ctx s) := (inPumpStep_eq_next_iff body s _).mpr ⟨ctx, h, rfl⟩

/-- `write_next`: the head of the FIFO is written, if there is one. -/
theorem writeNext_eq (s : State) :
    writeNext s =
      { s with
        inflight := s.fifo.head?.or s.inflight
        fifo := s.fifo.tail
        out := s.out ++ nextWriteEvents s.fifo } := by
  unfold writeNext nextWriteEvents
  obtain ⟨rx, fifo, inf, tab, pump, fatal, fault, out, rep, sched, cfg⟩ := s
  cases fifo <;> simp [write, transmit, emit]

/-- `on_resolved`: the Completion, the lock, the next write. -/
theorem onResolved_eq (st : CStatus) (s : State) :
    onResolved st s =
      { s with
        inflight := s.fifo.head?
        fifo := s.fifo.tail
        out := s.out ++ (completionEvents st s.inflight ++ nextWriteEvents s.fifo) } := by
  unfold onResolved
  rw [writeNext_eq]
  simp only [complete_out, complete_fifo, List.append_assoc, Option.or_none]
  unfold complete
  obtain ⟨rx, fifo, inf, tab, pump, fatal, fault, out, rep, sched, cfg⟩ := s
  cases inf with
  | none => rfl
  | some d => cases h : d.cb <;> simp [h, emit]

/-- What a resolving class leaves (R257, R312 to R314, R359). -/
theorem resolve_eq (q : Seq) (st : CStatus) (o : PumpOutcome) (s : State) :
    resolve q st o s = resolvedState q st o s := by
  unfold resolve resolvedState
  rw [onResolved_eq]
  simp [finish, emit]

/-- `enqueue`: it writes at once when nothing is in flight, else appends, else faults. -/
theorem enqueue_cases (d : Descriptor) (s : State) :
    (s.inflight = none ∧ enqueue d s = .go (write d s)) ∨
    (s.inflight ≠ none ∧ HasRoom s.fifo.length s.cfg.qDepth ∧ enqueue d s = .go { s with fifo := s.fifo ++ [d] }) ∨
    (s.inflight ≠ none ∧ ¬HasRoom s.fifo.length s.cfg.qDepth ∧
      enqueue d s = .stop (raiseFault .queueOverflow s)) := by
  unfold enqueue
  cases hi : s.inflight with
  | none => simp
  | some d' =>
    cases hr : isFull s.fifo.length s.cfg.qDepth
    · have := (isFull_eq_false_iff _ _).mp hr
      simp [this]
    · have := (isFull_eq_true_iff _ _).mp hr
      simp [this]

/-- What SUBMIT and CONNECT leave when they are not turned away. -/
theorem enqueueAndReturn_cases (d : Descriptor) (s : State) :
    (s.inflight = none ∧ enqueueAndReturn d s = reply .ok (write d s)) ∨
    (s.inflight ≠ none ∧ HasRoom s.fifo.length s.cfg.qDepth ∧
      enqueueAndReturn d s = reply .ok { s with fifo := s.fifo ++ [d] }) ∨
    (s.inflight ≠ none ∧ ¬HasRoom s.fifo.length s.cfg.qDepth ∧
      enqueueAndReturn d s = reply .faulted (raiseFault .queueOverflow s)) := by
  unfold enqueueAndReturn
  rcases enqueue_cases d s with ⟨h, he⟩ | ⟨h, hr, he⟩ | ⟨h, hr, he⟩ <;> simp [*]

/-- The kind a resolving frame is correlated with (R311). -/
theorem kindOf_eq (q : Seq) (s : State) :
    kindOf q s = match seqLookup q s.seqtab with
      | some e => e.kind
      | none => s.inflight.map (·.kind) := rfl

/-- The schedule: the next action and the rest. -/
theorem fetchAction_cons {a : Action} {rest : List Action} {s : State} (h : s.sched = a :: rest) :
    fetchAction s = some (a, { s with sched := rest }) := by
  simp [fetchAction, h]

theorem fetchAction_nil {s : State} (h : s.sched = []) : fetchAction s = none := by
  simp [fetchAction, h]

end Sys2Proof.Machine
end

