-- ==== Sys2Proof/Laws/Exec.lean ====
section
/-! SUPPORT. What a transition can do, said once. `Effect i s t` lists every way an instruction other than PSTEP takes `s` to
`t`, with the conditions under which it does; `exec_effect` says that a meaning's next state is one of them, `pstep_cases` and
`step_cases` do the same for PSTEP and for a step of the machine. -/

namespace Sys2Proof.Machine

/-- The ways an instruction other than PSTEP takes a state to the next. -/
inductive Effect (s : State) : Instr → State → Prop where
  /-- A host command that only returns a result (R206, R360, R361, R364). -/
  | returned (i : Instr) (r : HostResult) (hi : isResolving i = false) (hr : i ≠ .reset) (hp : s.pump = none) :
      Effect s i (reply r s)
  | reset (hp : s.pump = none) : Effect s .reset (reply .ok (resetBlock s))
  | opened (tmo : Bool) (h : HostReady s) : Effect s (.pump tmo) { s with pump := some (pumpContext tmo) }
  /-- SUBMIT or CONNECT with nothing in flight (R252). -/
  | written (i : Instr) (d : Descriptor) (hi : isResolving i = false) (hr : i ≠ .reset) (h : HostReady s)
      (he : enqueuedBy s.cfg i = some d)
      (hd : s.cfg.legal = true → Fits d.payload.length s.cfg.maxPayload) (hn : s.inflight = none) :
      Effect s i (reply .ok (write d s))
  /-- SUBMIT or CONNECT with a command in flight (R252). -/
  | queued (i : Instr) (d : Descriptor) (hi : isResolving i = false) (hr : i ≠ .reset) (h : HostReady s)
      (he : enqueuedBy s.cfg i = some d)
      (hd : s.cfg.legal = true → Fits d.payload.length s.cfg.maxPayload) (hn : s.inflight ≠ none)
      (hroom : HasRoom s.fifo.length s.cfg.qDepth) : Effect s i (reply .ok { s with fifo := s.fifo ++ [d] })
  | hostOverflow (i : Instr) (hi : isResolving i = false) (hr : i ≠ .reset) (h : HostReady s) (hn : s.inflight ≠ none)
      (hroom : ¬HasRoom s.fifo.length s.cfg.qDepth) : Effect s i (reply .faulted (raiseFault .queueOverflow s))
  | tooLong (kind : Kind) (cb : Bool) (payload : Bytes) (h : HostReady s)
      (hd : ¬Fits payload.length s.cfg.maxPayload) :
      Effect s (.submit kind cb payload) (reply .faulted (raiseFault .payloadTooLong s))
  | acked (q : Seq) (ctx : PumpCtx) (h : PumpReady ctx s)
      (hroom : seqLookup q s.seqtab ≠ none ∨ HasRoom s.seqtab.length s.cfg.seqDepth) :
      Effect s (.ack q)
        { s with
          seqtab := seqInsert q { kind := s.inflight.map (·.kind), receivedOk := true } s.seqtab
          pump := some { ctx with peek := some q } }
  | seqOverflow (q : Seq) (ctx : PumpCtx) (h : PumpReady ctx s) (hl : seqLookup q s.seqtab = none)
      (hroom : ¬HasRoom s.seqtab.length s.cfg.seqDepth) : Effect s (.ack q) (raiseFault .seqOverflow s)
  | busyWritten (q : Seq) (ctx : PumpCtx) (h : PumpReady ctx s) (hn : s.inflight = none) :
      Effect s (.busy q) (finish (.reinit q) (write (initDescriptor s.cfg) s))
  | busyQueued (q : Seq) (ctx : PumpCtx) (h : PumpReady ctx s) (hn : s.inflight ≠ none)
      (hroom : HasRoom s.fifo.length s.cfg.qDepth) :
      Effect s (.busy q) (finish (.reinit q) { s with fifo := s.fifo ++ [initDescriptor s.cfg] })
  | busyOverflow (q : Seq) (ctx : PumpCtx) (h : PumpReady ctx s) (hn : s.inflight ≠ none)
      (hroom : ¬HasRoom s.fifo.length s.cfg.qDepth) : Effect s (.busy q) (raiseFault .queueOverflow s)
  /-- A resolving class (R312 to R314). -/
  | resolved (i : Instr) (q : Seq) (st : CStatus) (o : PumpOutcome) (ctx : PumpCtx) (hi : isResolving i = true)
      (h : PumpReady ctx s) : Effect s i (resolvedState q st o s)
  /-- UNRECOGNIZED, CRC_ERROR and TIMEOUT (R316, R317, R355). -/
  | finished (i : Instr) (o : PumpOutcome) (hi : isResolving i = false) (hr : i ≠ .reset) (hp : s.pump ≠ none) :
      Effect s i (finish o s)
  | initWritten (h : canSend s = true) (hn : s.inflight = none) : Effect s .init (write (initDescriptor s.cfg) s)
  | initQueued (h : canSend s = true) (hn : s.inflight ≠ none) (hroom : HasRoom s.fifo.length s.cfg.qDepth) :
      Effect s .init { s with fifo := s.fifo ++ [initDescriptor s.cfg] }
  | initOverflow (h : canSend s = true) (hn : s.inflight ≠ none) (hroom : ¬HasRoom s.fifo.length s.cfg.qDepth) :
      Effect s .init (raiseFault .queueOverflow s)
  | framed (p : Bytes) (h : canSend s = true) : Effect s (.frame p) (transmit p s)
  | byteLost (b : Byte) : Effect s (.rxDeliver b) s
  | byteReceived (b : Byte) (hf : s.fault = none) (hg : s.fatal = false)
      (hroom : HasRoom s.rxbuf.length s.cfg.rxDepth) : Effect s (.rxDeliver b) { s with rxbuf := s.rxbuf ++ [b] }
  | rxOverflow (b : Byte) (hf : s.fault = none) (hg : s.fatal = false)
      (hroom : ¬HasRoom s.rxbuf.length s.cfg.rxDepth) : Effect s (.rxDeliver b) (raiseFault .rxOverflow s)
  | linkFailed (hg : s.fatal = false) : Effect s .linkFail { s with fatal := true }

/-- INIT's payload fits whatever MAX_PAYLOAD R8 allows. -/
theorem initDescriptor_fits {p : Params} (h : p.legal = true) :
    Fits (initDescriptor p).payload.length p.maxPayload := by
  intro m hm
  simp [Params.legal, hm, Capacity.atLeast] at h
  simp only [initDescriptor, initPayload, ascii, List.length_map, List.length_cons, List.length_nil]
  omega

theorem gated_effect {s : State} {i : Instr} {body : State → State} (hi : isResolving i = false) (hr : i ≠ .reset)
    (hp : s.pump = none) (h : HostReady s → Effect s i (body s)) : Effect s i (gated body s) := by
  rcases gated_cases body s with ⟨_, e⟩ | ⟨_, _, e⟩ | ⟨hf, hg, e⟩ <;> rw [e]
  · exact .returned i _ hi hr hp
  · exact .returned i _ hi hr hp
  · exact h ⟨hp, hf, hg⟩

theorem enqueueAndReturn_effect {s : State} {i : Instr} {d : Descriptor} (hi : isResolving i = false) (hr : i ≠ .reset)
    (h : HostReady s) (he : enqueuedBy s.cfg i = some d)
    (hd : s.cfg.legal = true → Fits d.payload.length s.cfg.maxPayload) : Effect s i (enqueueAndReturn d s) := by
  rcases enqueueAndReturn_cases d s with ⟨hn, e⟩ | ⟨hn, hroom, e⟩ | ⟨hn, hroom, e⟩ <;> rw [e]
  · exact .written i d hi hr h he hd hn
  · exact .queued i d hi hr h he hd hn hroom
  · exact .hostOverflow i hi hr h hn hroom

theorem resolve_effect {s : State} {i : Instr} {ctx : PumpCtx} (q : Seq) (st : CStatus) (o : PumpOutcome)
    (hi : isResolving i = true) (h : PumpReady ctx s) : Effect s i (resolve q st o s) := by
  rw [resolve_eq]; exact .resolved i q st o ctx hi h

theorem execAck_effect {q : Seq} {s t : State} (h : execAck q s = .next t) : Effect s (.ack q) t := by
  simp only [execAck, inPumpStep_eq_next_iff] at h
  obtain ⟨ctx, hr, rfl⟩ := h
  cases hl : seqLookup q s.seqtab with
  | some e => simpa [hl] using Effect.acked q ctx hr (.inl (by simp [hl]))
  | none =>
    cases hf : isFull s.seqtab.length s.cfg.seqDepth with
    | false => simpa [hl, hf] using Effect.acked q ctx hr (.inr ((isFull_eq_false_iff _ _).mp hf))
    | true => simpa [hl, hf] using Effect.seqOverflow q ctx hr hl ((isFull_eq_true_iff _ _).mp hf)

theorem execBusy_effect {q : Seq} {s t : State} (h : execBusy q s = .next t) : Effect s (.busy q) t := by
  simp only [execBusy, inPumpStep_eq_next_iff] at h
  obtain ⟨ctx, hr, rfl⟩ := h
  rcases enqueue_cases (initDescriptor s.cfg) s with ⟨hn, e⟩ | ⟨hn, hroom, e⟩ | ⟨hn, hroom, e⟩ <;> rw [e]
  · exact .busyWritten q ctx hr hn
  · exact .busyQueued q ctx hr hn hroom
  · exact .busyOverflow q ctx hr hn hroom

theorem execInit_effect {s t : State} (h : execInit s = .next t) : Effect s .init t := by
  unfold execInit at h
  split at h
  · rename_i hc
    rcases enqueue_cases (initDescriptor s.cfg) s with ⟨hn, e⟩ | ⟨hn, hroom, e⟩ | ⟨hn, hroom, e⟩ <;> rw [e] at h <;>
      cases h
    · exact .initWritten hc hn
    · exact .initQueued hc hn hroom
    · exact .initOverflow hc hn hroom
  · cases h

theorem execRxDeliver_effect {b : Byte} {s t : State} (h : execRxDeliver b s = .next t) :
    Effect s (.rxDeliver b) t := by
  unfold execRxDeliver at h
  split at h
  · cases h; exact .byteLost b
  · rename_i hc
    simp only [Bool.or_eq_true, Option.isSome_iff_ne_none, not_or, not_not, Bool.not_eq_true] at hc
    split at h <;> rename_i hr <;> cases h
    · exact .rxOverflow b hc.1 hc.2 ((isFull_eq_true_iff _ _).mp hr)
    · exact .byteReceived b hc.1 hc.2 ((isFull_eq_false_iff _ _).mp (by simpa using hr))

theorem execTimeout_effect {s t : State} (h : execTimeout s = .next t) : Effect s .timeout t := by
  unfold execTimeout at h
  split at h
  · rename_i hc
    cases h
    refine .finished _ _ rfl (by simp) ?_
    intro hp; simp [timeoutEnabled, hp] at hc
  · cases h

/-- A meaning's next state is one of the effects. -/
theorem exec_effect {i : Instr} {s t : State} (hi : i ≠ .pstep) (h : exec i s = .next t) : Effect s i t := by
  cases i with
  | reset => simp only [exec, execReset, hostCall_eq_next_iff] at h; obtain ⟨hp, rfl⟩ := h; exact .reset hp
  | connect =>
    simp only [exec, execConnect, hostCall_eq_next_iff] at h
    obtain ⟨hp, rfl⟩ := h
    exact gated_effect rfl (by simp) hp fun hr => enqueueAndReturn_effect rfl (by simp) hr rfl initDescriptor_fits
  | submit kind cb payload =>
    simp only [exec, execSubmit, hostCall_eq_next_iff] at h
    obtain ⟨hp, rfl⟩ := h
    refine gated_effect rfl (by simp) hp fun hr => ?_
    split <;> rename_i he
    · exact .tooLong kind cb payload hr ((exceeds_eq_true_iff _ _).mp he)
    · refine enqueueAndReturn_effect rfl (by simp) hr rfl fun _ => ?_
      exact (exceeds_eq_false_iff payload.length _).mp (by simpa using he)
  | pump tmo =>
    simp only [exec, execPump, hostCall_eq_next_iff] at h
    obtain ⟨hp, rfl⟩ := h
    exact gated_effect rfl (by simp) hp fun hr => .opened tmo hr
  | status =>
    simp only [exec, execStatus, hostCall_eq_next_iff] at h; obtain ⟨hp, rfl⟩ := h
    exact .returned _ _ rfl (by simp) hp
  | rxcount =>
    simp only [exec, execRxcount, hostCall_eq_next_iff] at h; obtain ⟨hp, rfl⟩ := h
    exact .returned _ _ rfl (by simp) hp
  | crc16 arg =>
    simp only [exec, execCrc16, hostCall_eq_next_iff] at h; obtain ⟨hp, rfl⟩ := h
    split <;> exact .returned _ _ rfl (by simp) hp
  | ack q => exact execAck_effect h
  | busy q => exact execBusy_effect h
  | error q code =>
    simp only [exec, execError, inPumpStep_eq_next_iff] at h; obtain ⟨ctx, hr, rfl⟩ := h
    exact resolve_effect _ _ _ rfl hr
  | switchOn q addr =>
    simp only [exec, execSwitchOn, receiveSwitch, inPumpStep_eq_next_iff] at h; obtain ⟨ctx, hr, rfl⟩ := h
    exact resolve_effect _ _ _ rfl hr
  | switchOff q addr =>
    simp only [exec, execSwitchOff, receiveSwitch, inPumpStep_eq_next_iff] at h; obtain ⟨ctx, hr, rfl⟩ := h
    exact resolve_effect _ _ _ rfl hr
  | respInit q p =>
    simp only [exec, execRespInit, receiveTerminal, inPumpStep_eq_next_iff] at h; obtain ⟨ctx, hr, rfl⟩ := h
    exact resolve_effect _ _ _ rfl hr
  | respPower q p =>
    simp only [exec, execRespPower, receiveTerminal, inPumpStep_eq_next_iff] at h; obtain ⟨ctx, hr, rfl⟩ := h
    exact resolve_effect _ _ _ rfl hr
  | respCircle q p =>
    simp only [exec, execRespCircle, receiveTerminal, inPumpStep_eq_next_iff] at h; obtain ⟨ctx, hr, rfl⟩ := h
    exact resolve_effect _ _ _ rfl hr
  | respStatus q p =>
    simp only [exec, execRespStatus, receiveTerminal, inPumpStep_eq_next_iff] at h; obtain ⟨ctx, hr, rfl⟩ := h
    exact resolve_effect _ _ _ rfl hr
  | respCalib q p =>
    simp only [exec, execRespCalib, receiveTerminal, inPumpStep_eq_next_iff] at h; obtain ⟨ctx, hr, rfl⟩ := h
    exact resolve_effect _ _ _ rfl hr
  | respHistory q p =>
    simp only [exec, execRespHistory, receiveTerminal, inPumpStep_eq_next_iff] at h; obtain ⟨ctx, hr, rfl⟩ := h
    exact resolve_effect _ _ _ rfl hr
  | unrecognized p =>
    simp only [exec, execUnrecognized, inPumpStep_eq_next_iff] at h; obtain ⟨ctx, hr, rfl⟩ := h
    exact .finished _ _ rfl (by simp) (by simp [hr.1])
  | crcError body =>
    simp only [exec, execCrcError, inPumpStep_eq_next_iff] at h; obtain ⟨ctx, hr, rfl⟩ := h
    exact .finished _ _ rfl (by simp) (by simp [hr.1])
  | init => exact execInit_effect h
  | frame p =>
    simp only [exec, execFrame] at h
    split at h <;> rename_i hc <;> cases h
    exact .framed p hc
  | rxDeliver b => exact execRxDeliver_effect h
  | linkFail =>
    simp only [exec, execLinkFail] at h
    split at h <;> rename_i hc <;> cases h
    exact .linkFailed (by simpa using hc)
  | pstep => exact absurd rfl hi
  | timeout => exact execTimeout_effect h

/-- `process` (R358) runs the instruction the body decodes to. -/
theorem process_eq_exec (body : Bytes) (s : State) : process body s = exec (decodeBody body) s := by
  unfold process decodeBody
  cases verify body with
  | none => rfl
  | some p =>
    simp only
    rcases classify p with _ | _ | _ | ⟨_, st, _⟩ | ⟨op, _⟩ | _
    · rfl
    · rfl
    · rfl
    · cases st <;> rfl
    · cases op <;> rfl
    · rfl

/-- A received class: what an extracted body can decode to (R106, R317). -/
def IsReceived (i : Instr) : Prop :=
  (∃ q, i = .ack q) ∨ (∃ q, i = .busy q) ∨ isResolving i = true ∨ (∃ p, i = .unrecognized p) ∨ ∃ b, i = .crcError b

theorem decodeBody_isReceived (body : Bytes) : IsReceived (decodeBody body) := by
  unfold decodeBody IsReceived
  cases verify body with
  | none => simp
  | some p =>
    simp only
    rcases classify p with _ | _ | _ | ⟨_, st, _⟩ | ⟨op, _⟩ | _
    · simp [RxClass.toInstr]
    · simp [RxClass.toInstr]
    · simp [RxClass.toInstr, isResolving]
    · cases st <;> simp [RxClass.toInstr, isResolving]
    · cases op <;> simp [RxClass.toInstr, isResolving]
    · simp [RxClass.toInstr]

/-- What PSTEP can do (R354). -/
theorem pstep_cases {s t : State} (h : exec .pstep s = .next t) :
    (∃ o, s.pump ≠ none ∧ t = finish o s) ∨
    (∃ ctx body rest i, PumpReady ctx s ∧ extractOne s.rxbuf = some (body, rest) ∧ decodeBody body = i ∧ IsReceived i ∧
      Effect { s with rxbuf := rest } i t) := by
  simp only [exec, execPstep] at h
  split at h
  · cases h
  · rename_i ctx hp
    split at h
    · cases h; exact .inl ⟨_, by simp [hp], rfl⟩
    · rename_i hf
      split at h
      · cases h; exact .inl ⟨_, by simp [hp], rfl⟩
      · rename_i hg
        split at h
        · rename_i body rest he
          rw [process_eq_exec] at h
          have hi := decodeBody_isReceived body
          refine .inr ⟨ctx, body, rest, _, ⟨hp, by simpa using hf, by simpa using hg⟩, he, rfl, hi, exec_effect ?_ h⟩
          intro hc
          rw [hc] at hi
          simp [IsReceived, isResolving] at hi
        · split at h <;> cases h
          exact .inl ⟨_, by simp [hp], rfl⟩

/-- What a step of the machine can do: the scheduled instruction, an illegal word, the reset pin, or with nothing scheduled
the pump engine's own step or none. -/
theorem step_cases {s t : State} (h : step s = .next t) :
    (∃ a rest i c, s.sched = a :: rest ∧ actionCode a = some c ∧ decode c = .ok i ∧ i ≠ .init ∧ (∀ p, i ≠ .frame p) ∧
      exec i { s with sched := rest } = .next t) ∨
    (∃ w arg rest, s.sched = .host w arg :: rest ∧ s.pump = none ∧ t = reply .illegal { s with sched := rest }) ∨
    (∃ rest, s.sched = .resetPin :: rest ∧ t = resetBlock { s with sched := rest }) ∨
    (s.sched = [] ∧ exec .pstep s = .next t) ∨
    (s.sched = [] ∧ t = s) := by
  unfold step at h
  cases hs : s.sched with
  | nil =>
    rw [fetchAction_nil hs] at h
    simp only at h
    split at h
    · simp [h]
    · cases h; simp
  | cons a rest =>
    rw [fetchAction_cons hs] at h
    simp only [runAction] at h
    cases a with
    | resetPin => simp [actionCode] at h; simp [h]
    | host w arg =>
      simp only [actionCode] at h
      cases hd : decode (.host w arg) with
      | ok i =>
        rw [hd] at h
        refine .inl ⟨_, _, _, _, rfl, rfl, hd, ?_, ?_, h⟩ <;>
        · simp only [decode, decodeHost] at hd
          (repeat' split at hd) <;> cases hd <;> simp
      | reject r =>
        rw [hd] at h
        simp only [issueIllegal] at h
        obtain ⟨h1, h2⟩ := (hostCall_eq_next_iff _ _ _).mp h
        exact .inr (.inl ⟨w, arg, rest, rfl, h1, h2.symm⟩)
    | rx b => exact .inl ⟨_, _, _, _, rfl, rfl, rfl, by simp, by simp, h⟩
    | linkFail => exact .inl ⟨_, _, _, _, rfl, rfl, rfl, by simp, by simp, h⟩
    | pstep => exact .inl ⟨_, _, _, _, rfl, rfl, rfl, by simp, by simp, h⟩
    | timeout => exact .inl ⟨_, _, _, _, rfl, rfl, rfl, by simp, by simp, h⟩

/-- A command word decodes to a host command. -/
theorem decodeHost_not_resolving {w : Word} {arg : Bytes} {i : Instr} (h : decodeHost w arg = .ok i) :
    isResolving i = false ∧ i ≠ .pstep := by
  simp only [decodeHost] at h
  (repeat' split at h) <;> cases h <;> simp [isResolving]

/-- Only the scheduled PSTEP decodes to PSTEP. -/
theorem pstep_of_decode {a : Action} {c : Code} (hc : actionCode a = some c) (hd : decode c = .ok .pstep) : a = .pstep := by
  cases a with
  | pstep => rfl
  | resetPin => simp [actionCode] at hc
  | host w arg =>
    simp only [actionCode, Option.some.injEq] at hc
    subst hc
    exact absurd rfl (decodeHost_not_resolving hd).2
  | _ => simp only [actionCode, Option.some.injEq] at hc; subst hc; simp [decode] at hd

/-- A scheduled instruction that enqueues is a host command (R252). -/
theorem enqueueIsNext_of_decode {s : State} {a : Action} {rest : List Action} {c : Code} {i : Instr} {d : Descriptor}
    (hs : s.sched = a :: rest) (hc : actionCode a = some c) (hd : decode c = .ok i) (he : enqueuedBy s.cfg i = some d) :
    EnqueueIsNext d s := by
  cases a with
  | host w arg =>
    simp only [actionCode, Option.some.injEq] at hc
    subst hc
    exact .inl ⟨w, arg, rest, i, hs, hd, he⟩
  | resetPin => simp [actionCode] at hc
  | _ => simp only [actionCode, Option.some.injEq] at hc; subst hc; simp only [decode, Decoded.ok.injEq] at hd
         subst hd; simp [enqueuedBy] at he

theorem sched_tail_of_nil {s : State} (h : s.sched = []) : { s with sched := s.sched.tail } = s := by
  cases s; simp only at h; subst h; rfl

/-- `pstep_cases` on a state without the scheduled entry. -/
theorem pstep_effect {s t : State} {r : List Action} (h : exec .pstep { s with sched := r } = .next t) :
    (s.pump ≠ none ∧ ∃ o, t = finish o { s with sched := r }) ∨
    (∃ ctx body rest i, PumpReady ctx s ∧ extractOne s.rxbuf = some (body, rest) ∧ decodeBody body = i ∧ IsReceived i ∧
      Effect { s with sched := r, rxbuf := rest } i t) := by
  rcases pstep_cases h with ⟨o, h1, h2⟩ | ⟨ctx, body, rest, i, h1, h2, h3, h4, h5⟩
  · exact .inl ⟨h1, o, h2⟩
  · exact .inr ⟨ctx, body, rest, i, h1, h2, h3, h4, h5⟩

/-- A step of the machine as an effect: a reset, a wait, a result, the end of a PUMP, an agent's instruction, or the
instruction of an extracted frame, each on the state without the scheduled entry. -/
theorem step_effect {s t : State} (h : step s = .next t) :
    (ResetIsNext s ∧ ∃ rs, t = { resetBlock s with sched := s.sched.tail, replies := s.replies ++ rs } ∧ rs.length ≤ 1) ∨
    t = { s with sched := s.sched.tail } ∨
    (s.pump = none ∧ ¬ResetIsNext s ∧ ∃ r, t = reply r { s with sched := s.sched.tail }) ∨
    (PumpStepIsNext s ∧ ¬ResetIsNext s ∧ ∃ o, t = finish o { s with sched := s.sched.tail }) ∨
    (∃ i a rest c, ¬ResetIsNext s ∧ i ≠ .reset ∧ i ≠ .init ∧ (∀ p, i ≠ .frame p) ∧ isResolving i = false ∧
      s.sched = a :: rest ∧ actionCode a = some c ∧ decode c = .ok i ∧ Effect { s with sched := s.sched.tail } i t) ∨
    (∃ ctx body rest i, ¬ResetIsNext s ∧ PumpStepIsNext s ∧ PumpReady ctx s ∧ extractOne s.rxbuf = some (body, rest) ∧
      decodeBody body = i ∧ IsReceived i ∧ Effect { s with sched := s.sched.tail, rxbuf := rest } i t) := by
  rcases step_cases h with ⟨a, rest, i, c, h1, h2, h3, h4, h5, h6⟩ | ⟨w, arg, rest, h1, h2, rfl⟩ | ⟨rest, h1, rfl⟩ |
    ⟨h0, h5⟩ | ⟨h0, h5⟩
  · have ht : rest = s.sched.tail := by simp [h1]
    subst ht
    by_cases hreset : i = .reset
    · subst hreset
      have hw : ResetIsNext s := by
        cases a with
        | host w arg =>
          simp only [actionCode, Option.some.injEq] at h2
          subst h2
          exact ⟨_, .inr ⟨w, arg, h1, h3⟩⟩
        | resetPin => simp [actionCode] at h2
        | _ => simp only [actionCode, Option.some.injEq] at h2; subst h2; simp [decode] at h3
      simp only [exec, execReset, hostCall_eq_next_iff] at h6
      obtain ⟨_, rfl⟩ := h6
      exact .inl ⟨hw, [.ok], rfl, le_refl _⟩
    · have hn : ¬ResetIsNext s := by
        rintro ⟨r, hr | ⟨w, arg, hr, hd⟩⟩
        · rw [h1] at hr; injection hr with hr _; subst hr; simp [actionCode] at h2
        · rw [h1] at hr; injection hr with hr _; subst hr
          simp only [actionCode, Option.some.injEq] at h2
          subst h2
          simp only [decode, hd, Decoded.ok.injEq] at h3
          exact hreset h3.symm
      by_cases hp : i = .pstep
      · subst hp
        have ha : s.sched = [] ∨ ∃ rest, s.sched = .pstep :: rest := .inr ⟨_, h1.trans (by rw [pstep_of_decode h2 h3])⟩
        rcases pstep_effect h6 with ⟨h7, h8⟩ | ⟨ctx, body, r, i, h7⟩
        · exact .inr (.inr (.inr (.inl ⟨⟨h7, ha⟩, hn, h8⟩)))
        · exact .inr (.inr (.inr (.inr (.inr ⟨ctx, body, r, i, hn, ⟨by simp [h7.1.1], ha⟩, h7⟩))))
      · refine .inr (.inr (.inr (.inr (.inl ⟨i, a, _, c, hn, hreset, h4, h5, ?_, h1, h2, h3, exec_effect hp h6⟩))))
        cases a with
        | host w arg =>
          simp only [actionCode, Option.some.injEq] at h2
          subst h2
          exact (decodeHost_not_resolving h3).1
        | resetPin => simp [actionCode] at h2
        | _ =>
          simp only [actionCode, Option.some.injEq] at h2; subst h2
          simp only [decode, Decoded.ok.injEq] at h3; subst h3; rfl
  · have ht : rest = s.sched.tail := by simp [h1]
    subst ht
    by_cases hn : ResetIsNext s
    · exfalso
      have h6 := h
      obtain ⟨r, hr | ⟨w', arg', hr, hd⟩⟩ := hn
      · rw [h1] at hr; injection hr with hr _; cases hr
      · simp only [step, fetchAction_cons hr, runAction, actionCode, decode, hd, exec, execReset,
          hostCall_eq_next_iff] at h6
        have := congrArg State.replies h6.2
        simp at this
    · exact .inr (.inr (.inl ⟨h2, hn, _, rfl⟩))
  · have ht : rest = s.sched.tail := by simp [h1]
    subst ht
    exact .inl ⟨⟨_, .inl h1⟩, [], by simp [resetBlock], by simp⟩
  · have hn : ¬ResetIsNext s := by
      rintro ⟨r, hr | ⟨w, arg, hr, hd⟩⟩ <;> rw [h0] at hr <;> cases hr
    rw [← sched_tail_of_nil h0] at h5
    rcases pstep_effect h5 with ⟨h7, h8⟩ | ⟨ctx, body, r, i, h7⟩
    · exact .inr (.inr (.inr (.inl ⟨⟨h7, .inl h0⟩, hn, h8⟩)))
    · exact .inr (.inr (.inr (.inr (.inr ⟨ctx, body, r, i, hn, ⟨by simp [h7.1.1], .inl h0⟩, h7⟩))))
  · exact .inr (.inl (h5.trans (sched_tail_of_nil h0).symm))

end Sys2Proof.Machine
end

