-- ==== Sys2Proof/Laws/PerInstr.lean ====
section
/-! SUPPORT. Statements made per instruction. `ReservedBitsClear`: the command word an instruction is encoded as has bits 31
to 18 zero (spec R108). -/

namespace Sys2Proof.Laws.ReservedBitsClear

/-- R108: 'reserved, must be 0'. -/
def Statement (i : Instr) : Prop := ∀ w arg, encode i = .host w arg → w.extractLsb' 18 14 = 0

theorem commandWord_reserved (op : BitVec 8) (kind : Kind) (cb tmo : Bool) :
    (commandWord op kind cb tmo).extractLsb' 18 14 = 0 := by
  unfold commandWord
  ext i h
  simp only [BitVec.getElem_extractLsb', BitVec.getLsbD_append, BitVec.getLsbD_ofBool]
  have h1 : ¬(18 + i < 8) := by omega
  have h2 : ¬(18 + i - 8 < 8) := by omega
  have h3 : ¬(18 + i - 8 - 8 < 1) := by omega
  have h4 : ¬(18 + i - 8 - 8 - 1 < 1) := by omega
  simp [h1, h2, h3, h4]

theorem reset : Statement .reset :=
  fun _ _ h => by injection h with h _; exact h ▸ commandWord_reserved _ _ _ _

theorem connect : Statement .connect :=
  fun _ _ h => by injection h with h _; exact h ▸ commandWord_reserved _ _ _ _

theorem submit (kind : Kind) (cb : Bool) (payload : Bytes) : Statement (.submit kind cb payload) :=
  fun _ _ h => by injection h with h _; exact h ▸ commandWord_reserved _ _ _ _

theorem pump (tmo : Bool) : Statement (.pump tmo) :=
  fun _ _ h => by injection h with h _; exact h ▸ commandWord_reserved _ _ _ _

theorem status : Statement .status :=
  fun _ _ h => by injection h with h _; exact h ▸ commandWord_reserved _ _ _ _

theorem rxcount : Statement .rxcount :=
  fun _ _ h => by injection h with h _; exact h ▸ commandWord_reserved _ _ _ _

theorem crc16 (arg : Bytes) : Statement (.crc16 arg) :=
  fun _ _ h => by injection h with h _; exact h ▸ commandWord_reserved _ _ _ _

theorem ack (seq : Seq) : Statement (.ack seq) :=
  fun _ _ h => nomatch h

theorem busy (seq : Seq) : Statement (.busy seq) :=
  fun _ _ h => nomatch h

theorem error (seq : Seq) (code : Bytes) : Statement (.error seq code) :=
  fun _ _ h => nomatch h

theorem switchOn (seq : Seq) (addr : Bytes) : Statement (.switchOn seq addr) :=
  fun _ _ h => nomatch h

theorem switchOff (seq : Seq) (addr : Bytes) : Statement (.switchOff seq addr) :=
  fun _ _ h => nomatch h

theorem respInit (seq : Seq) (payload : Bytes) : Statement (.respInit seq payload) :=
  fun _ _ h => nomatch h

theorem respPower (seq : Seq) (payload : Bytes) : Statement (.respPower seq payload) :=
  fun _ _ h => nomatch h

theorem respCircle (seq : Seq) (payload : Bytes) : Statement (.respCircle seq payload) :=
  fun _ _ h => nomatch h

theorem respStatus (seq : Seq) (payload : Bytes) : Statement (.respStatus seq payload) :=
  fun _ _ h => nomatch h

theorem respCalib (seq : Seq) (payload : Bytes) : Statement (.respCalib seq payload) :=
  fun _ _ h => nomatch h

theorem respHistory (seq : Seq) (payload : Bytes) : Statement (.respHistory seq payload) :=
  fun _ _ h => nomatch h

theorem unrecognized (payload : Bytes) : Statement (.unrecognized payload) :=
  fun _ _ h => nomatch h

theorem crcError (body : Bytes) : Statement (.crcError body) :=
  fun _ _ h => nomatch h

theorem init : Statement .init :=
  fun _ _ h => nomatch h

theorem frame (payload : Bytes) : Statement (.frame payload) :=
  fun _ _ h => nomatch h

theorem rxDeliver (b : Byte) : Statement (.rxDeliver b) :=
  fun _ _ h => nomatch h

theorem linkFail : Statement .linkFail :=
  fun _ _ h => nomatch h

theorem pstep : Statement .pstep :=
  fun _ _ h => nomatch h

theorem timeout : Statement .timeout :=
  fun _ _ h => nomatch h

end Sys2Proof.Laws.ReservedBitsClear
end

