-- ==== Sys2Proof/Laws/SeqTab.lean ====
section
/-! SUPPORT. The laws of the sequence table (spec R36): a read after a write, a read after a delete, the canonical form, and
the number of entries. -/

namespace Sys2Proof.Machine

/-- A read after a write to the same key gives the entry written; every other key reads as before. -/
theorem seqLookup_seqInsert (k q : Seq) (e : SeqEntry) (t : SeqTab) :
    seqLookup k (seqInsert q e t) = if q = k then some e else seqLookup k t := by
  induction t with
  | nil => simp [seqInsert, seqLookup]
  | cons a t ih =>
    obtain ⟨k', e'⟩ := a
    simp only [seqInsert]
    split
    · simp [seqLookup]
    · split
      · rename_i heq; by_cases h : q = k <;> simp [seqLookup, heq, h]
      · rename_i h
        simp only [seqLookup, ih]
        by_cases h1 : k' = k
        · subst h1; simp [Ne.symm h]
        · simp [h1]

/-- A read after a delete: nothing at the deleted key; every other key reads as before. -/
theorem seqLookup_seqDelete (k q : Seq) (t : SeqTab) :
    seqLookup k (seqDelete q t) = if q = k then none else seqLookup k t := by
  induction t with
  | nil => simp [seqDelete, seqLookup]
  | cons a t ih =>
    obtain ⟨k', e'⟩ := a
    unfold seqDelete at ih ⊢
    by_cases h1 : k' = q
    · subst h1
      by_cases h : k' = k <;> simp_all [seqLookup]
    · by_cases h2 : k' = k
      · subst h2; simp [seqLookup, h1, Ne.symm h1]
      · by_cases h : q = k <;> simp_all [seqLookup]

theorem mem_seqInsert {q : Seq} {e : SeqEntry} {t : SeqTab} {x : Seq × SeqEntry} (h : x ∈ seqInsert q e t) :
    x = (q, e) ∨ x ∈ t := by
  induction t with
  | nil => simpa [seqInsert] using h
  | cons a t ih =>
    obtain ⟨k', e'⟩ := a
    simp only [seqInsert] at h
    split at h
    · simpa using h
    · split at h
      · simp only [List.mem_cons] at h ⊢; tauto
      · simp only [List.mem_cons] at h ⊢
        rcases h with h | h
        · tauto
        · have := ih h; tauto

/-- A write keeps the canonical form. -/
theorem seqInsert_wf {t : SeqTab} (q : Seq) (e : SeqEntry) (h : SeqTab.wf t) : SeqTab.wf (seqInsert q e t) := by
  induction t with
  | nil => simp [seqInsert, SeqTab.wf]
  | cons a t ih =>
    obtain ⟨k', e'⟩ := a
    have ht : SeqTab.wf t := (List.pairwise_cons.mp h).2
    have ha := (List.pairwise_cons.mp h).1
    simp only [seqInsert]
    split
    · rename_i hlt
      refine List.pairwise_cons.mpr ⟨?_, h⟩
      intro b hb
      rcases List.mem_cons.mp hb with rfl | hb
      · exact hlt
      · exact lt_trans hlt (ha b hb)
    · split
      · subst_vars; exact List.pairwise_cons.mpr ⟨ha, ht⟩
      · rename_i hlt hne
        refine List.pairwise_cons.mpr ⟨?_, ih ht⟩
        intro b hb
        rcases mem_seqInsert hb with rfl | hb
        · have : k'.toNat ≠ q.toNat := fun hc => hne (BitVec.eq_of_toNat_eq hc)
          simp only at hlt ⊢; omega
        · exact ha b hb

/-- A delete keeps the canonical form. -/
theorem seqDelete_wf {t : SeqTab} (q : Seq) (h : SeqTab.wf t) : SeqTab.wf (seqDelete q t) :=
  List.Pairwise.filter _ h

/-- A delete adds no entry. -/
theorem seqDelete_length_le (q : Seq) (t : SeqTab) : (seqDelete q t).length ≤ t.length := List.length_filter_le _ _

/-- A write of a new key adds one entry; a write of a key already there adds none. -/
theorem seqInsert_length {t : SeqTab} (q : Seq) (e : SeqEntry) (h : SeqTab.wf t) :
    (seqInsert q e t).length = if (seqLookup q t).isNone then t.length + 1 else t.length := by
  induction t with
  | nil => simp [seqInsert, seqLookup]
  | cons a t ih =>
    obtain ⟨k', e'⟩ := a
    have ht : SeqTab.wf t := (List.pairwise_cons.mp h).2
    have ha := (List.pairwise_cons.mp h).1
    have habsent : ∀ u : SeqTab, (∀ b ∈ u, q.toNat < b.1.toNat) → seqLookup q u = none := by
      intro u
      induction u with
      | nil => intro _; rfl
      | cons b u ihu =>
        intro hb
        have h1 : b.1 ≠ q := fun hc => by have := hb b (by simp); rw [hc] at this; omega
        simp [seqLookup, h1, ihu fun c hc => hb c (by simp [hc])]
    simp only [seqInsert]
    split
    · rename_i hlt
      have : seqLookup q ((k', e') :: t) = none :=
        habsent _ fun b hb => by
          rcases List.mem_cons.mp hb with rfl | hb
          · exact hlt
          · exact lt_trans hlt (ha b hb)
      simp [this]
    · split
      · simp [seqLookup, *]
      · rename_i hne
        simp only [List.length_cons, ih ht, seqLookup, if_neg hne]
        split <;> rfl

end Sys2Proof.Machine
end

