-- ==== Sys2Proof/Tests/Slice0.lean ====
section
/-! SUPPORT. The model's own tests: ill-formed terms that WellFormed refuses, every constructor decoded from a word or from
characters written out from the spec's encoding, the vectors of 95_test_vectors.md for the checksum, the codec and the
classifier, one step of each instruction, and for each statement with hypotheses a state and operands that meet them. -/

namespace Sys2Proof.Tests

open Sys2Proof Sys2Proof.Machine

-- One theorem after another: each evaluation of the kernel would otherwise hold a thread of its own.
set_option Elab.async false

/-! ## Helpers -/

/-- The sixteen hex digits, as the spec writes them. -/
def digits : Bytes := ascii ['0', '1', '2', '3', '4', '5', '6', '7', '8', '9', 'A', 'B', 'C', 'D', 'E', 'F']

/-- `n` characters: the hex digits of a number, as they stand in the vectors. -/
def text : Nat → Nat → Bytes
  | 0, _ => []
  | n + 1, w => text n (w / 16) ++ [digits.getD (w % 16) 0]

/-- The bytes of R100 around a body written out with its checksum. -/
def onWire (body : Bytes) : Bytes := [0x05, 0x05, 0x03, 0x03] ++ body ++ [0x0D, 0x0A]

/-- The answer is a next state with the property. -/
def after (a : Answer) (f : State → Bool) : Bool :=
  match a with
  | .next s => f s
  | .fault _ => false
  | .refused _ => false

theorem next_of_after {a : Answer} {f : State → Bool} (h : after a f = true) : ∃ t, a = .next t ∧ f t = true := by
  cases a with
  | next s => exact ⟨s, rfl, h⟩
  | fault _ => exact absurd h (by simp [after])
  | refused _ => exact absurd h (by simp [after])

theorem not_reset_of_nil {s : State} (h : s.sched = []) : ¬ResetIsNext s := by
  rintro ⟨rest, h' | ⟨w, arg, h', _⟩⟩ <;> rw [h] at h' <;> cases h'

/-- The answer is this fault. -/
def stopsWith (a : Answer) (r : Fault) : Bool :=
  match a with
  | .next _ => false
  | .fault r' => decide (r' = r)
  | .refused _ => false

/-- "0000000100C1", an ACK of sequence number 1. -/
def ack1 : Bytes := text 12 0x0000000100C1

/-- Small capacities: one ACK frame fills the receive buffer. -/
def small : Params :=
  { rxDepth := some 22, qDepth := some 1, seqDepth := some 1, maxPayload := some 4, initKind := 0x0A }

def first : Descriptor := { payload := text 4 0x0012, kind := 1, cb := true }
def second : Descriptor := { payload := text 4 0x0013, kind := 2, cb := false }
def third : Descriptor := { payload := text 4 0x0014, kind := 3, cb := false }

/-- IDLE, WRITING and WAITING_QUEUED, with small capacities. -/
def idle : State := State.resetWith small
def writing : State := { idle with inflight := some first }
def waiting : State := { writing with fifo := [second] }

def context : PumpCtx := { tmo := true, peek := none }
def pumping (s : State) : State := { s with pump := some context }
def peeking (s : State) : State := { s with pump := some { context with peek := some 1 } }
def faulted (s : State) : State := { s with fault := some .rxOverflow }
def lost (s : State) : State := { s with fatal := true }
def scheduled (a : Action) (s : State) : State := { s with sched := [a] }

/-- An entry for sequence number 1, which fills the table. -/
def tabled (s : State) : State := { s with seqtab := [(1, { kind := some 7, receivedOk := true })] }

/-- Neither sticky bit is set. -/
def NotGated (s : State) : Prop := s.fault = none ∧ s.fatal = false

/-- A power reading of sequence number 5 waits in the buffer. -/
def loaded (s : State) : State := { s with rxbuf := onWire (text 14 0x0013000500CB81) }

/-! ## WellFormed refuses -/

theorem test_wf_refuses_error_code_of_ack : (Instr.error 1 (text 4 0x00C1)).wf = false := by decide +kernel
theorem test_wf_refuses_error_code_of_busy : (Instr.error 1 (text 4 0x00C2)).wf = false := by decide +kernel
theorem test_wf_refuses_short_error_code : (Instr.error 1 (text 3 0x123)).wf = false := by decide +kernel
theorem test_wf_refuses_error_code_not_word : (Instr.error 1 [0x30, 0x2D, 0x30, 0x30]).wf = false := by decide +kernel
theorem test_wf_refuses_short_address : (Instr.switchOn 1 (text 15 0)).wf = false := by decide +kernel
theorem test_wf_refuses_address_not_word : (Instr.switchOff 1 (0x20 :: text 15 0)).wf = false := by decide +kernel
theorem test_wf_refuses_other_opcode : (Instr.respInit 1 (text 8 0x00130001)).wf = false := by decide +kernel
theorem test_wf_refuses_other_seq : (Instr.respPower 2 (text 8 0x00130001)).wf = false := by decide +kernel
theorem test_wf_refuses_short_response : (Instr.respCircle 1 (text 7 0x0019000)).wf = false := by decide +kernel
theorem test_wf_refuses_response_not_word : (Instr.respStatus 1 (text 8 0x00240001 ++ [0x2D])).wf = false := by
  decide +kernel
theorem test_wf_refuses_recognized : (Instr.unrecognized ack1).wf = false := by decide +kernel
theorem test_wf_refuses_unrecognized_not_word : (Instr.unrecognized [0x2D]).wf = false := by decide +kernel
theorem test_wf_refuses_verified_body : (Instr.crcError (text 16 0x0000000100C1FEED)).wf = false := by decide +kernel
theorem test_wf_refuses_empty_body : (Instr.crcError []).wf = false := by decide +kernel

/-! ## Decoding: words of R109, characters of R106, R103 and R100 with the checksums of 95_test_vectors.md, 2.1 -/

theorem test_decode_reset : decode (.host 0x00000001 []) = .ok .reset := by decide +kernel
theorem test_decode_connect : decode (.host 0x00000002 []) = .ok .connect := by decide +kernel
theorem test_decode_submit : decode (.host 0x00010903 [0x41]) = .ok (.submit 9 true [0x41]) := by decide +kernel
theorem test_decode_pump : decode (.host 0x00020004 []) = .ok (.pump true) := by decide +kernel
theorem test_decode_status : decode (.host 0x00000005 []) = .ok .status := by decide +kernel
theorem test_decode_rxcount : decode (.host 0x00000006 []) = .ok .rxcount := by decide +kernel
theorem test_decode_crc16 : decode (.host 0x00000007 [0x41]) = .ok (.crc16 [0x41]) := by decide +kernel
theorem test_decode_ack : decode (.body (text 16 0x0000000100C1FEED)) = .ok (.ack 1) := by decide +kernel
theorem test_decode_busy : decode (.body (text 16 0x0000000A00C2D308)) = .ok (.busy 10) := by decide +kernel
theorem test_decode_error :
    decode (.body (text 16 0x0000000B012321A3)) = .ok (.error 11 (text 4 0x0123)) := by decide +kernel
theorem test_decode_switch_on :
    decode (.body (text 32 0x0000000200D8000D6F0000ABCDEF4FCE)) = .ok (.switchOn 2 (text 16 0x000D6F0000ABCDEF)) := by
  decide +kernel
theorem test_decode_switch_off :
    decode (.body (text 32 0x0000000300DE000D6F0000ABCDEE2426)) = .ok (.switchOff 3 (text 16 0x000D6F0000ABCDEE)) := by
  decide +kernel
theorem test_decode_resp_init :
    decode (.body (text 16 0x00110001BABE378C)) = .ok (.respInit 1 (text 12 0x00110001BABE)) := by decide +kernel
theorem test_decode_resp_power :
    decode (.body (text 14 0x0013000500CB81)) = .ok (.respPower 5 (text 10 0x0013000500)) := by decide +kernel
theorem test_decode_resp_circle :
    decode (.body (text 12 0x0019000C4591)) = .ok (.respCircle 12 (text 8 0x0019000C)) := by decide +kernel
theorem test_decode_resp_status :
    decode (.body (text 12 0x0024000DDAEC)) = .ok (.respStatus 13 (text 8 0x0024000D)) := by decide +kernel
theorem test_decode_resp_calib :
    decode (.body (text 12 0x002700066AEB)) = .ok (.respCalib 6 (text 8 0x00270006)) := by decide +kernel
theorem test_decode_resp_history :
    decode (.body (text 12 0x0049000E6656)) = .ok (.respHistory 14 (text 8 0x0049000E)) := by decide +kernel
theorem test_decode_unrecognized :
    decode (.body (text 12 0x00180001B115)) = .ok (.unrecognized (text 8 0x00180001)) := by decide +kernel
theorem test_decode_crc_error :
    decode (.body (text 16 0x0000000100C1FEEE)) = .ok (.crcError (text 16 0x0000000100C1FEEE)) := by decide +kernel
theorem test_decode_init : decode (.txPayload [0x30, 0x30, 0x30, 0x41]) = .ok .init := by decide +kernel
theorem test_decode_frame :
    decode (.wire (onWire (text 8 0x000AB43C))) = .ok (.frame (text 4 0x000A)) := by decide +kernel
theorem test_decode_rx_deliver : decode (.rxStep 0x05) = .ok (.rxDeliver 0x05) := by decide +kernel
theorem test_decode_link_fail : decode .linkFailStep = .ok .linkFail := by decide +kernel
theorem test_decode_pstep : decode .pumpStep = .ok .pstep := by decide +kernel
theorem test_decode_timeout : decode .timeoutStep = .ok .timeout := by decide +kernel

/-- V-Q6 to V-Q9. -/
theorem test_decode_refuses_illegal_words :
    [0x00000000, 0x00020003, 0x00000105, 0x00000008].map (fun w => decode (.host w [])) =
      List.replicate 4 (.reject .illegalWord) := by decide +kernel
theorem test_decode_refuses_bad_frame : decode (.wire (onWire (text 8 0x000AB43D))) = .reject .notFrame := by
  decide +kernel
theorem test_table_word_of_submit : decodeTableWord 32 0x00000103 = some (.submit 1 false []) := by decide +kernel
/-- "0000000100C1": the first character is in bits 7 to 0. -/
theorem test_table_word_of_ack : decodeTableWord 96 0x314330303130303030303030 = some (.ack 1) := by decide +kernel

/-! ## The checksum (2.1), the encoder (2.2), the scanner (2.3), the verifier (2.4) and the classifier (2.5) -/

theorem test_crc16_check_value : crc16 (text 9 0x123456789) = 0x31C3 := by decide +kernel
theorem test_crc16_of_ff : crc16 [0xFF] = 0x1EF0 := by decide +kernel
theorem test_crc_step_high_bit : crcStep 0 0x80 = 0x9188 := by decide +kernel
theorem test_hex4 : hex4 0x00FF = text 4 0x00FF := by decide +kernel
theorem test_hexval4_reads_lowercase : hexval4 (ascii ['a', 'b', '1', '2']) = some 0xAB12 := by decide +kernel
theorem test_hexval4_refuses_g : hexval4 (ascii ['0', '0', 'G', '1']) = none := by decide +kernel
/-- V-E1, V-E2. -/
theorem test_encode_empty : encodeFrame [] = onWire (text 4 0) := by decide +kernel
theorem test_encode_init : encodeFrame (text 4 0x000A) = onWire (text 8 0x000AB43C) := by decide +kernel
/-- V-X3, V-X4, V-X7, V-X8, V-X9, V-X10, V-X12, V-X14. -/
theorem test_extract_needs_a_body : extractOne (onWire []) = none := by decide +kernel
theorem test_extract_discards_what_precedes :
    extractOne (onWire [] ++ onWire (text 8 0x0000DA8A)) = some (text 8 0x0000DA8A, []) := by decide +kernel
theorem test_extract_waits_for_lf : extractOne (onWire (text 4 0)).dropLast = none := by decide +kernel
theorem test_extract_refuses_cr_other :
    extractOne ([0x05, 0x05, 0x03, 0x03, 0x30, 0x0D, 0x58, 0x0D, 0x0A]) = none := by decide +kernel
theorem test_extract_keeps_the_second_frame :
    extractOne (onWire (text 16 0x0000000100C1FEED) ++ onWire (text 16 0x0000000200C1103F)) =
      some (text 16 0x0000000100C1FEED, onWire (text 16 0x0000000200C1103F)) := by decide +kernel
theorem test_extract_starts_at_one : extractOne (0x05 :: onWire (text 4 0)) = some (text 4 0, []) := by decide +kernel
theorem test_extract_refuses_lf_cr :
    extractOne [0x05, 0x05, 0x03, 0x03, 0x30, 0x0A, 0x0D] = none := by decide +kernel
theorem test_extract_refuses_high_byte : extractOne (onWire [0x30, 0xC1, 0x30]) = none := by decide +kernel
theorem test_verify_refuses_lowercase :
    verify (ack1 ++ ascii ['f', 'e', 'e', 'd']) = none := by decide +kernel
theorem test_verify_empty_payload : verify (text 4 0) = some [] := by decide +kernel
theorem test_verify_refuses_short : verify (text 2 0xAB) = none := by decide +kernel
/-- V-C3, V-C5, V-C7, V-C11, V-C12, V-C18. -/
theorem test_classify_code_is_case_sensitive :
    classify (text 8 1 ++ ascii ['0', '0', 'c', '1']) = .error 1 (ascii ['0', '0', 'c', '1']) := by decide +kernel
theorem test_classify_seq_reads_lowercase :
    classify (text 4 0 ++ ascii ['a', 'b', 'c', 'd'] ++ text 4 0x00C1) = .ack 0xABCD := by decide +kernel
theorem test_classify_d8_without_address :
    classify (text 12 0x0000000100D8) = .error 1 (text 4 0x00D8) := by decide +kernel
theorem test_classify_c1_with_address :
    classify (text 28 0x0000000100C1000D6F0000ABCDEF) = .unrecognized := by decide +kernel
theorem test_classify_d8_with_short_address :
    classify (text 27 0x0000000100D8000D6F0000ABCDE) = .unrecognized := by decide +kernel
theorem test_classify_length_7 : classify (text 7 0x0011000) = .unrecognized := by decide +kernel

/-! ## One step of each instruction (95_test_vectors.md, 2.6, and the examples of the rules) -/

/-- R450: everything but the trace, the parameters and the host's results is as at power-on. -/
theorem test_reset_clears :
    after (exec .reset (tabled (faulted (lost waiting)))) (fun t => t = { idle with replies := [.ok] }) = true := by
  decide +kernel
theorem test_reset_is_blocked_by_a_pump : stopsWith (exec .reset (pumping idle)) .hostBlocked = true := by decide +kernel
/-- R253, R254. -/
theorem test_connect_writes_init :
    after (exec .connect idle) (fun t => t.out = [.tx (onWire (text 8 0x000AB43C))] ∧
      t.inflight = some { payload := text 4 0x000A, kind := 0x0A, cb := false }) = true := by decide +kernel
theorem test_connect_overflows : after (exec .connect waiting) (fun t => t.fault = some .queueOverflow) = true := by
  decide +kernel
/-- V-Q1, V-Q5. -/
theorem test_submit_writes :
    after (exec (.submit 1 false (text 4 0x0012)) idle) (fun t =>
      t.out = [.tx (onWire (text 8 0x0012C9F9))] ∧ statusWord t = 0x00000005) = true := by decide +kernel
theorem test_submit_too_long :
    after (exec (.submit 1 false (text 5 0x00120)) idle) (fun t =>
      statusWord t = 0x00000090 ∧ t.replies = [.faulted]) = true := by decide +kernel
theorem test_pump_opens :
    after (exec (.pump true) idle) (fun t => t.pump = some { tmo := true, peek := none } ∧ t.replies = []) = true := by
  decide +kernel
/-- V-P13. -/
theorem test_pump_fatal : after (exec (.pump true) (lost idle)) (fun t => t.replies = [.fatal]) = true := by
  decide +kernel
/-- V-Q3: 0x156. -/
theorem test_status_word :
    after (exec .status { waiting with fault := some .queueOverflow }) (fun t => t.replies = [.okWord 0x00000156]) = true := by
  decide +kernel
/-- V-P16. -/
theorem test_rxcount :
    after (exec .rxcount { idle with rxbuf := [0x05, 0x05, 0x03, 0x03, 0x30, 0x30] }) (fun t =>
      t.replies = [.okWord 6]) = true := by decide +kernel
theorem test_crc16_command :
    after (exec (.crc16 ack1) State.reset) (fun t => t.replies = [.okCrc 0xFEED (text 4 0xFEED)]) = true := by
  decide +kernel
theorem test_crc16_command_too_long :
    after (exec (.crc16 (text 5 0)) idle) (fun t => t.replies = [.illegal]) = true := by decide +kernel
/-- V-P1, V-P7. -/
theorem test_ack_records :
    after (exec (.ack 1) (pumping writing)) (fun t =>
      t.seqtab = [(1, { kind := some 1, receivedOk := true })] ∧ t.inflight = some first ∧
        t.pump = some { tmo := true, peek := some 1 }) = true := by decide +kernel
theorem test_ack_overflows :
    after (exec (.ack 2) (pumping (tabled writing))) (fun t =>
      t.fault = some .seqOverflow ∧ t.out = [.result .faulted] ∧ t.pump = none) = true := by decide +kernel
/-- V-P11. -/
theorem test_busy_from_idle :
    after (exec (.busy 10) (pumping idle)) (fun t =>
      t.out = [.tx (onWire (text 8 0x000AB43C)), .result (.reinit 10)]) = true := by decide +kernel
theorem test_busy_keeps_the_lock :
    after (exec (.busy 10) (pumping writing)) (fun t => t.inflight = some first ∧ t.fifo.length = 1) = true := by
  decide +kernel
/-- V-P9, with a callback and a command waiting. -/
theorem test_error_resolves :
    after (exec (.error 11 (text 4 0x0123)) (pumping waiting)) (fun t =>
      t.out = [.completion first .error, .tx (encodeFrame second.payload),
        .result (.error 11 (text 4 0x0123) (some first) (some 1))] ∧ t.inflight = some second ∧ t.fifo = []) = true := by
  decide +kernel
theorem test_switch_on_takes_the_table_kind :
    after (exec (.switchOn 1 (text 16 0x000D6F0000ABCDEF)) (pumping (tabled writing))) (fun t =>
      t.out = [.completion first .ok, .result (.switched 1 .on (text 16 0x000D6F0000ABCDEF) (some 7))] ∧
        t.seqtab = []) = true := by decide +kernel
theorem test_switch_off_with_nothing_in_flight :
    after (exec (.switchOff 1 (text 16 0)) (pumping idle)) (fun t =>
      t.out = [.result (.switched 1 .off (text 16 0) none)]) = true := by decide +kernel
theorem test_resp_init :
    after (exec (.respInit 1 (text 8 0x00110001)) (pumping writing)) (fun t =>
      t.out.getLast? = some (.result (.response (text 4 0x0011) 1 (some 1) (text 8 0x00110001)))) = true := by
  decide +kernel
theorem test_resp_power_keeps_other_entries :
    after (exec (.respPower 5 (text 10 0x0013000500)) (pumping (tabled writing))) (fun t =>
      t.seqtab.length = 1 ∧ t.inflight = none) = true := by decide +kernel
theorem test_resp_circle :
    after (exec (.respCircle 12 (text 8 0x0019000C)) (pumping idle)) (fun t =>
      t.out = [.result (.response (text 4 0x0019) 12 none (text 8 0x0019000C))]) = true := by decide +kernel
theorem test_resp_status :
    after (exec (.respStatus 13 (text 8 0x0024000D)) (pumping idle)) (fun t =>
      t.out = [.result (.response (text 4 0x0024) 13 none (text 8 0x0024000D))]) = true := by decide +kernel
theorem test_resp_calib :
    after (exec (.respCalib 6 (text 8 0x00270006)) (pumping idle)) (fun t =>
      t.out = [.result (.response (text 4 0x0027) 6 none (text 8 0x00270006))]) = true := by decide +kernel
theorem test_resp_history :
    after (exec (.respHistory 14 (text 8 0x0049000E)) (pumping idle)) (fun t =>
      t.out = [.result (.response (text 4 0x0049) 14 none (text 8 0x0049000E))]) = true := by decide +kernel
/-- V-P10. -/
theorem test_unrecognized :
    after (exec (.unrecognized (text 8 0x00180001)) (pumping writing)) (fun t =>
      t = { writing with out := [.result (.noData (text 8 0x00180001))] }) = true := by decide +kernel
/-- V-P8. -/
theorem test_crc_error :
    after (exec (.crcError (text 2 0xAB)) (pumping writing)) (fun t =>
      t = { writing with out := [.result (.crcError (text 2 0xAB))] }) = true := by decide +kernel
theorem test_init_waits : after (exec .init writing) (fun t => t.fifo.map (·.payload) = [text 4 0x000A]) = true := by
  decide +kernel
/-- V-E3. -/
theorem test_frame_is_sent :
    after (exec (.frame (text 4 0x0012)) idle) (fun t => t.out = [.tx (onWire (text 8 0x0012C9F9))]) = true := by
  decide +kernel
theorem test_rx_deliver : after (exec (.rxDeliver 0x41) idle) (fun t => t.rxbuf = [0x41]) = true := by decide +kernel
/-- V-P12. -/
theorem test_rx_deliver_overflows :
    after (exec (.rxDeliver 0x41) { idle with rxbuf := List.replicate 22 0x41 }) (fun t =>
      t.fault = some .rxOverflow ∧ t.rxbuf.length = 22) = true := by decide +kernel
theorem test_link_fail : after (exec .linkFail writing) (fun t => t = lost writing) = true := by decide +kernel
/-- Program P1: the last PSTEP. -/
theorem test_pstep_resolves :
    after (exec .pstep (loaded (pumping waiting))) (fun t =>
      t.out = [.completion first .ok, .tx (encodeFrame second.payload),
        .result (.response (text 4 0x0013) 5 (some 1) (text 10 0x0013000500))] ∧ t.rxbuf = []) = true := by decide +kernel
theorem test_pstep_ends_a_peek : after (exec .pstep (peeking writing)) (fun t => t.out = [.result (.ack 1)]) = true := by
  decide +kernel
/-- V-P3. -/
theorem test_timeout : after (exec .timeout (pumping writing)) (fun t => t = { writing with out := [.result .none] }) = true := by
  decide +kernel
theorem test_timeout_not_while_peeking : stopsWith (exec .timeout (peeking writing)) .timeoutNotEnabled = true := by
  decide +kernel
theorem test_step_runs_the_reset_pin :
    after (step (scheduled .resetPin (pumping waiting))) (fun t => t = idle) = true := by decide +kernel
theorem test_step_fetches_the_table_word :
    after (step (State.reset.withFetchWord 96 0x314330303130303030303030)) (fun t => t.seqtab.length = 1) = true := by
  decide +kernel

/-! ## Witnesses: for each statement with hypotheses, a state and operands that meet them -/

theorem witness_EncodedInstructionsDecodeToThemselves :
    (Instr.error 0xFFFF (text 4 0x00D8)).wf = true ∧ (Instr.switchOn 0 (text 16 0)).wf = true ∧
      (Instr.respInit 1 (text 8 0x00110001)).wf = true ∧ (Instr.unrecognized []).wf = true ∧
      (Instr.crcError (text 2 0xAB)).wf = true := by decide +kernel

theorem witness_DecodedCommandWordsEncodeBack :
    decodeHost 0x0001FF03 [0x41] = .ok (.submit 0xFF true [0x41]) ∧ decodeHost 0x00020004 [0x41] = .ok (.pump true) := by
  decide +kernel

theorem witness_CommandRowsAreDisjointAndDecodingFollowsThem :
    rowSubmit ∈ hostRows ∧ 0x0001FF03#32 &&& rowSubmit.mask = rowSubmit.pattern := by decide +kernel

theorem witness_CommandFieldsAreReadFromTheirBits :
    0x0001FF03#32 &&& 0xFFFE00FF = 0x00000003 ∧ 0x00000003#32 &&& 0xFFFE00FF = 0x00000003 ∧
      0x00020004#32 &&& 0xFFFDFFFF = 0x00000004 ∧ 0x00000004#32 &&& 0xFFFDFFFF = 0x00000004 ∧
      0x00000001#32 &&& 0xFFFFFFFF = 0x00000001 ∧ 0x00000002#32 &&& 0xFFFFFFFF = 0x00000002 ∧
      0x00000005#32 &&& 0xFFFFFFFF = 0x00000005 ∧ 0x00000006#32 &&& 0xFFFFFFFF = 0x00000006 ∧
      0x00000007#32 &&& 0xFFFFFFFF = 0x00000007 := by decide +kernel

theorem witness_ClassifyTakesTheFirstMatchingRow : ∀ x ∈ ack1, isWord x = true := by decide +kernel

theorem witness_PayloadsWithoutSequenceNumberAreUnrecognized :
    (∃ x ∈ slice (text 7 0 ++ [0x47] ++ text 4 0x00C1) 4 8, isHexAny x = false) ∧ (text 7 0x0011000).length < 8 := by
  decide +kernel

/-- A sequence number with lowercase digits in each of the first four classes. -/
theorem witness_ClassesCarryTheirFields :
    classify (text 4 0 ++ ascii ['a', 'b', 'c', 'D'] ++ text 4 0x00C1) = .ack 0xABCD ∧
      classify (text 4 0 ++ ascii ['a', 'b', 'c', 'D'] ++ text 4 0x00C2) = .busy 0xABCD ∧
      classify (text 4 0 ++ ascii ['a', 'b', 'c', 'D'] ++ text 4 0x0123) = .error 0xABCD (text 4 0x0123) ∧
      classify (text 4 0 ++ ascii ['a', 'b', 'c', 'D'] ++ text 20 0x00D8000D6F0000ABCDEF) =
        .switch 0xABCD .on (text 16 0x000D6F0000ABCDEF) ∧
      classify (text 4 0 ++ ascii ['f', 'f', 'f', 'f'] ++ text 20 0x00DE000D6F0000ABCDEE) =
        .switch 0xFFFF .off (text 16 0x000D6F0000ABCDEE) ∧
      classify (text 8 0x0049FFFF) = .terminal .history 0xFFFF ∧ classify (text 8 0x0012000D) = .unrecognized := by
  decide +kernel

theorem witness_ExtractedBodiesDecodeWellFormed :
    extractOne (onWire (text 2 0xAB)) = some (text 2 0xAB, []) := by decide +kernel

theorem witness_FramesOfWordPayloadsRoundTrip :
    (∀ x ∈ ack1, isWord x = true) ∧ ∃ x ∈ [0x30#8, 0x2D#8], isWord x = false := by decide +kernel

theorem witness_BytesAfterAFrameStay : ∀ x ∈ ([] : Bytes), isWord x = true := by decide +kernel

theorem witness_FirstMatchIsTheLeftmostMatch :
    firstMatch (0x05 :: onWire (text 1 0)) = some (1, 6) ∧ IsFrameMatch (0x05 :: onWire (text 1 0)) 1 6 ∧
      firstMatch (onWire []) = none := by
  refine ⟨by decide +kernel, ?_, by decide +kernel⟩
  unfold IsFrameMatch
  decide +kernel

theorem witness_ExtractionRemovesThroughTheTerminator :
    extractOne (0x41 :: onWire (text 4 0) ++ [0x05, 0x05]) = some (text 4 0, [0x05, 0x05]) := by decide +kernel

theorem witness_CrcObeysItsLaws :
    (text 4 0x0012).length = (text 4 0xFFFF).length ∧ 7 < 8 ∧ verify ([] ++ 0x30 :: text 3 0) = some [] := by
  decide +kernel

theorem witness_ResetRestoresEveryElement :
    (tabled (faulted (lost waiting))).pump = none ∧ (scheduled .resetPin (pumping waiting)).sched = .resetPin :: [] := by
  decide +kernel

/-- At the boundaries: a payload of MAX_PAYLOAD bytes and of one more, a FIFO with its last slot free and full. -/
theorem witness_capacities :
    Fits (text 4 0).length idle.cfg.maxPayload ∧ ¬Fits (text 5 0).length idle.cfg.maxPayload ∧
      HasRoom writing.fifo.length writing.cfg.qDepth ∧ ¬HasRoom waiting.fifo.length waiting.cfg.qDepth ∧
      HasRoom idle.seqtab.length idle.cfg.seqDepth ∧ ¬HasRoom (tabled idle).seqtab.length (tabled idle).cfg.seqDepth := by
  refine ⟨?_, ?_, ?_, ?_, ?_, ?_⟩
  · exact (exceeds_eq_false_iff _ _).mp (by decide +kernel)
  · exact (exceeds_eq_true_iff _ _).mp (by decide +kernel)
  · exact (isFull_eq_false_iff _ _).mp (by decide +kernel)
  · exact (isFull_eq_true_iff _ _).mp (by decide +kernel)
  · exact (isFull_eq_false_iff _ _).mp (by decide +kernel)
  · exact (isFull_eq_true_iff _ _).mp (by decide +kernel)

/-- The host is free and not gated, with nothing in flight, a command in flight, and a full FIFO; and gated by each bit. -/
theorem witness_host_states :
    HostReady idle ∧ HostReady writing ∧ HostReady waiting ∧ idle.inflight = none ∧ writing.inflight ≠ none ∧
      waiting.inflight ≠ none ∧ (faulted idle).pump = none ∧ (faulted idle).fault ≠ none ∧ (lost idle).pump = none ∧
      (lost idle).fault = none ∧ (lost idle).fatal = true := by
  unfold HostReady
  decide +kernel

theorem witness_SubmitFollowsItsRule :
    HostReady idle ∧ Fits (text 4 0).length idle.cfg.maxPayload ∧ ¬Fits (text 5 0).length idle.cfg.maxPayload ∧
      HasRoom writing.fifo.length writing.cfg.qDepth ∧ ¬HasRoom waiting.fifo.length waiting.cfg.qDepth :=
  ⟨witness_host_states.1, witness_capacities.1, witness_capacities.2.1, witness_capacities.2.2.1,
    witness_capacities.2.2.2.1⟩

theorem witness_ConnectFollowsItsRule :
    HostReady idle ∧ HostReady writing ∧ HasRoom writing.fifo.length writing.cfg.qDepth ∧ HostReady waiting ∧
      ¬HasRoom waiting.fifo.length waiting.cfg.qDepth :=
  ⟨witness_host_states.1, witness_host_states.2.1, witness_capacities.2.2.1, witness_host_states.2.2.1,
    witness_capacities.2.2.2.1⟩

theorem witness_PumpCommandFollowsItsRule :
    HostReady idle ∧ (faulted idle).pump = none ∧ (faulted idle).fault ≠ none ∧ (lost idle).pump = none ∧
      (lost idle).fault = none ∧ (lost idle).fatal = true := by
  unfold HostReady
  decide +kernel

theorem witness_StatusReturnsTheControlState : (tabled (faulted (lost waiting))).pump = none := rfl

theorem witness_RxcountReturnsTheBufferedBytes : (loaded (lost idle)).pump = none := rfl

theorem witness_Crc16CommandFollowsItsRule :
    (faulted (lost idle)).pump = none ∧ Fits (text 4 0).length idle.cfg.maxPayload ∧
      ¬Fits (text 5 0).length idle.cfg.maxPayload :=
  ⟨rfl, witness_capacities.1, witness_capacities.2.1⟩

theorem witness_IllegalWordReturnsIllegalAndChangesNothing :
    (0x00000000#32).extractLsb' 0 8 = 0 ∧ 8 ≤ ((0x00000008#32).extractLsb' 0 8).toNat ∧
      (0x00000105#32).extractLsb' 0 8 = rowStatus.pattern.extractLsb' 0 8 ∧
      0x00000105#32 &&& rowStatus.mask ≠ rowStatus.pattern ∧
      (scheduled (.host 0x00000105 []) waiting).pump = none ∧
      (∀ r ∈ hostRows, 0x00000105#32 &&& r.mask ≠ r.pattern) := by decide +kernel

theorem witness_FaultAndFatalGateThreeCommands :
    (faulted (lost idle)).pump = none ∧ (faulted (lost idle)).fault ≠ none ∧ (lost idle).pump = none ∧
      (lost idle).fault = none ∧ (lost idle).fatal = true := by decide +kernel

theorem witness_HostHasNoStepDuringAPump :
    (scheduled .resetPin (pumping waiting)).pump ≠ none ∧
      (scheduled .resetPin (pumping waiting)).sched = .resetPin :: [] := by decide +kernel

/-- A pump step under way, with nothing in flight, a command in flight with room behind it, and a full FIFO. -/
theorem witness_pump_states :
    PumpReady context (pumping idle) ∧ PumpReady context (pumping writing) ∧ PumpReady context (pumping waiting) ∧
      PumpReady context (pumping (tabled waiting)) :=
  ⟨⟨rfl, rfl, rfl⟩, ⟨rfl, rfl, rfl⟩, ⟨rfl, rfl, rfl⟩, ⟨rfl, rfl, rfl⟩⟩

theorem witness_AckRecordsItsSequenceNumber :
    PumpReady context (pumping (tabled writing)) ∧ seqLookup 1 (pumping (tabled writing)).seqtab ≠ none ∧
      seqLookup 2 (pumping (tabled writing)).seqtab = none ∧
      ¬HasRoom (tabled idle).seqtab.length (tabled idle).cfg.seqDepth ∧ PumpReady context (pumping idle) ∧
      HasRoom idle.seqtab.length idle.cfg.seqDepth :=
  ⟨⟨rfl, rfl, rfl⟩, by decide +kernel, by decide +kernel, witness_capacities.2.2.2.2.2, ⟨rfl, rfl, rfl⟩,
    witness_capacities.2.2.2.2.1⟩

theorem witness_BusyEnqueuesInit :
    PumpReady context (pumping idle) ∧ (pumping idle).inflight = none ∧ PumpReady context (pumping writing) ∧
      (pumping writing).inflight ≠ none ∧ HasRoom writing.fifo.length writing.cfg.qDepth ∧
      PumpReady context (pumping waiting) ∧ ¬HasRoom waiting.fifo.length waiting.cfg.qDepth :=
  ⟨⟨rfl, rfl, rfl⟩, rfl, ⟨rfl, rfl, rfl⟩, by decide +kernel, witness_capacities.2.2.1, ⟨rfl, rfl, rfl⟩,
    witness_capacities.2.2.2.1⟩

theorem witness_KindLookupReadsTheTableFirst :
    seqLookup 1 (tabled writing).seqtab = some { kind := some 7, receivedOk := true } ∧
      seqLookup 2 (tabled writing).seqtab = none ∧ (tabled writing).inflight = some first ∧
      seqLookup 2 (tabled idle).seqtab = none ∧ (tabled idle).inflight = none := by decide +kernel

/-- The resolving classes: a full state. -/
theorem witness_ResolvingDeletesOnlyItsKey :
    PumpReady context (pumping (tabled waiting)) ∧ SeqTab.wf (pumping (tabled waiting)).seqtab ∧ (2 : Seq) ≠ 1 ∧
      Instr.respHistory 1 [] ∈ [Instr.respCalib 1 [], Instr.respHistory 1 []] := by
  refine ⟨⟨rfl, rfl, rfl⟩, ?_, ?_, ?_⟩ <;> decide +kernel

theorem witness_ErrorResolvesWithTheCommandInFlight : PumpReady context (pumping (tabled waiting)) := ⟨rfl, rfl, rfl⟩
theorem witness_SwitchAcknowledgementsResolve : PumpReady context (pumping (tabled waiting)) := ⟨rfl, rfl, rfl⟩
theorem witness_TerminalResponsesResolve : PumpReady context (pumping (tabled waiting)) := ⟨rfl, rfl, rfl⟩
theorem witness_UnrecognizedGivesNoData : PumpReady context (pumping waiting) := ⟨rfl, rfl, rfl⟩

theorem witness_ChecksumMismatchGivesCrcError :
    verify (text 3 0) = none ∧ verify (text 4 1) = none ∧ PumpReady context (pumping waiting) :=
  ⟨by decide +kernel, by decide +kernel, rfl, rfl, rfl⟩

theorem witness_InitIsEnqueued :
    NotGated idle ∧ idle.inflight = none ∧ NotGated writing ∧ writing.inflight ≠ none ∧
      HasRoom writing.fifo.length writing.cfg.qDepth ∧ NotGated waiting ∧ waiting.pump = none ∧
      NotGated (pumping waiting) ∧ (pumping waiting).pump ≠ none ∧
      ¬HasRoom waiting.fifo.length waiting.cfg.qDepth :=
  ⟨⟨rfl, rfl⟩, rfl, ⟨rfl, rfl⟩, by decide +kernel, witness_capacities.2.2.1, ⟨rfl, rfl⟩, rfl, ⟨rfl, rfl⟩,
    by decide +kernel, witness_capacities.2.2.2.1⟩

theorem witness_FrameIsSentWhole : NotGated waiting := ⟨rfl, rfl⟩

/-- A buffer one byte short of RX_DEPTH has room, a full one has none. -/
theorem witness_RxDeliverFollowsItsRule :
    HasRoom (List.replicate 21 (0x41 : Byte)).length idle.cfg.rxDepth ∧
      ¬HasRoom (List.replicate 22 (0x41 : Byte)).length idle.cfg.rxDepth ∧ NotGated idle ∧ idle.pump = none ∧
      (pumping idle).pump ≠ none ∧ (lost idle).fatal = true ∧ (faulted idle).fault ≠ none :=
  ⟨(isFull_eq_false_iff _ _).mp (by decide +kernel), (isFull_eq_true_iff _ _).mp (by decide +kernel), ⟨rfl, rfl⟩, rfl,
    by decide +kernel, rfl, by decide +kernel⟩

theorem witness_LinkFailSetsFatalOnly : idle.fatal = false ∧ (lost idle).fatal = true := ⟨rfl, rfl⟩

theorem witness_PumpStepFollowsItsRule :
    (faulted (pumping idle)).pump = some context ∧ (faulted (pumping idle)).fault ≠ none ∧
      (lost (pumping idle)).fault = none ∧ (lost (pumping idle)).fatal = true ∧
      extractOne (loaded (pumping idle)).rxbuf = some (text 14 0x0013000500CB81, []) ∧
      extractOne (peeking idle).rxbuf = none ∧ (peeking idle).pump = some { context with peek := some 1 } ∧
      context.peek = none := by decide +kernel

theorem witness_TimeoutFinishesWithNone :
    ((pumping idle).pump = some { tmo := true, peek := none } ∧ extractOne (pumping idle).rxbuf = none ∧
      (pumping idle).fatal = false ∧ (pumping idle).fault = none) ∧
      ¬((peeking idle).pump = some { tmo := true, peek := none } ∧ extractOne (peeking idle).rxbuf = none ∧
        (peeking idle).fatal = false ∧ (peeking idle).fault = none) := by decide +kernel

theorem witness_StepRunsTheDecodedInstruction :
    actionCode (.host 0x00000005 []) = some (.host 0x00000005 []) ∧ decode (.host 0x00000005 []) = .ok .status ∧
      decode (.host 0x00000000 []) = .reject .illegalWord ∧ pstepEnabled (peeking idle) = true ∧
      pstepEnabled (pumping idle) = false ∧ idle.sched = [] := by decide +kernel

theorem witness_QueueStateFollowsItsTable :
    qstate idle = .idle ∧ qstate writing = .writing ∧ qstate waiting = .waitingQueued ∧ waiting.fifo.length = 1 ∧
      qstate { waiting with fifo := [second, third] } = .waitingQueued ∧
      (idle.inflight = none → idle.fifo = []) ∧ HasRoom writing.fifo.length writing.cfg.qDepth ∧
      ¬HasRoom waiting.fifo.length waiting.cfg.qDepth :=
  ⟨rfl, rfl, rfl, rfl, rfl, fun _ => rfl, witness_capacities.2.2.1, witness_capacities.2.2.2.1⟩

/-- An ACK frame in a pump step: it enqueues nothing and resolves nothing. -/
def ackNext : State := { pumping waiting with rxbuf := onWire (text 16 0x0000000100C1FEED) }

theorem ackNext_extracts : extractOne ackNext.rxbuf = some (text 16 0x0000000100C1FEED, []) := by decide +kernel

theorem ackNext_decodes : decodeBody (text 16 0x0000000100C1FEED) = .ack 1 := by decide +kernel

theorem witness_QueueStateChangesOnlyOnItsEvents :
    ¬ResetIsNext ackNext ∧ (∀ d, ¬EnqueueIsNext d ackNext) ∧ ¬ResolvingStepIsNext ackNext ∧
      ∃ t, step ackNext = .next t ∧ (t.seqtab.length = 1 : Bool) = true := by
  refine ⟨not_reset_of_nil rfl, ?_, ?_, next_of_after (by decide +kernel)⟩
  · rintro d (⟨w, arg, rest, i, h, _⟩ | ⟨_, body, rest, h, he⟩)
    · cases h
    · rw [ackNext_extracts, Option.some.injEq, Prod.mk.injEq] at h
      rw [← h.1, ackNext_decodes] at he
      cases he
  · rintro ⟨_, h | h | ⟨_, _, _, body, rest, h, hr⟩⟩
    · cases h
    · cases h
    · rw [ackNext_extracts, Option.some.injEq, Prod.mk.injEq] at h
      rw [← h.1, ackNext_decodes] at hr
      cases hr

/-- The steps that do write: a pump step that resolves, and a host command and a BUSY frame that enqueue. -/
theorem witness_writing_steps :
    ResolvingStepIsNext (loaded (pumping waiting)) ∧
      EnqueueIsNext { payload := text 1 0, kind := 9, cb := false } (scheduled (.host 0x00000903 (text 1 0)) idle) ∧
      EnqueueIsNext (initDescriptor small)
        { pumping idle with rxbuf := onWire (text 16 0x0000000A00C2D308), sched := [.pstep] } := by
  refine ⟨⟨⟨by decide +kernel, .inl rfl⟩, .inr (.inr ⟨rfl, rfl, rfl, text 14 0x0013000500CB81, [], ?_, ?_⟩)⟩, ?_, ?_⟩
  · decide +kernel
  · decide +kernel
  · exact .inl ⟨_, _, _, .submit 9 false (text 1 0), rfl, by decide +kernel, rfl⟩
  · exact .inr ⟨⟨by decide +kernel, .inr ⟨[], rfl⟩⟩, text 16 0x0000000A00C2D308, [], by decide +kernel, by decide +kernel⟩

/-- Q_DEPTH is 2, the smallest that takes three commands. -/
theorem witness_ThreeCommandsAreWrittenOneByOne :
    HostReady (State.resetWith { small with qDepth := some 2 }) ∧
      HasRoom 1 (State.resetWith { small with qDepth := some 2 }).cfg.qDepth ∧
      ∀ d ∈ [first, second, third], Fits d.payload.length small.maxPayload := by
  refine ⟨⟨rfl, rfl, rfl⟩, (isFull_eq_false_iff _ _).mp (by decide +kernel), ?_⟩
  intro d hd
  simp only [List.mem_cons, List.not_mem_nil, or_false] at hd
  rcases hd with rfl | rfl | rfl <;> exact (exceeds_eq_false_iff _ _).mp (by decide +kernel)

theorem witness_PowerOnMeetsTheInvariant : small.legal = true := by decide +kernel

/-- A state with every storage in use: a frame in the buffer, a full queue, a full table, a PUMP that peeks. -/
def busy : State := loaded (peeking (tabled waiting))

/-- The invariant, computed. -/
def checks (s : State) : Bool :=
  s.cfg.legal && !exceeds s.rxbuf.length s.cfg.rxDepth && !exceeds s.fifo.length s.cfg.qDepth &&
    !exceeds s.seqtab.length s.cfg.seqDepth &&
    (s.inflight.toList ++ s.fifo).all (fun d => !exceeds d.payload.length s.cfg.maxPayload) &&
    (s.inflight.isSome || s.fifo.isEmpty) && decide (SeqTab.wf s.seqtab) && s.seqtab.all (fun ke => ke.2.receivedOk) &&
    (s.fault.isNone || s.pump.isNone) &&
    (s.pump.bind (·.peek)).all (fun q => (seqLookup q s.seqtab).isSome)

theorem inv_of_checks {s : State} (h : checks s = true) : s.Inv := by
  simp only [checks, Bool.and_eq_true, Bool.not_eq_true', exceeds_eq_false_iff, decide_eq_true_eq, List.all_eq_true,
    Bool.or_eq_true, Option.all_eq_true] at h
  obtain ⟨⟨⟨⟨⟨⟨⟨⟨⟨h1, h2⟩, h3⟩, h4⟩, h5⟩, h6⟩, h7⟩, h8⟩, h9⟩, h10⟩ := h
  refine ⟨h1, h2, h3, h4, ?_, ?_, h7, h8, ?_, ?_⟩
  · rintro d (hd | hd)
    · exact h5 d (by simp [hd])
    · exact h5 d (by simp [hd])
  · intro hi
    simpa [hi] using h6
  · intro hf
    simpa [hf] using h9
  · intro ctx q hc hq
    exact h10 q (by simp [hc, hq])

theorem busy_invariant : busy.Inv := inv_of_checks (by decide +kernel)

theorem witness_StepKeepsTheInvariant : busy.Inv ∧ ∃ t, step busy = .next t ∧ (t.fifo = [] : Bool) = true :=
  ⟨busy_invariant, next_of_after (by decide +kernel)⟩

/-- The hypotheses of the statements about one step of a run: no command waits behind nothing, a step is taken, and it is no
reset. -/
theorem witness_steps :
    (busy.inflight = none → busy.fifo = []) ∧ ¬ResetIsNext busy ∧ ∃ t, step busy = .next t ∧ (t.pump = none : Bool) = true :=
  ⟨fun h => (by cases h), not_reset_of_nil rfl, next_of_after (by decide +kernel)⟩

theorem witness_NoCommandWaitsWhileNothingIsInFlight :
    ∃ t, step (loaded (pumping writing)) = .next t ∧ (t.inflight = none : Bool) = true :=
  next_of_after (by decide +kernel)

theorem witness_TraceIsAppendOnly : ∃ t, step busy = .next t ∧ (t.out.length = 3 : Bool) = true :=
  next_of_after (by decide +kernel)

theorem witness_StickyBitsLastUntilReset :
    ¬ResetIsNext (faulted (lost idle)) ∧ ∃ t, step (faulted (lost idle)) = .next t ∧ (t.fatal : Bool) = true :=
  ⟨not_reset_of_nil rfl, next_of_after (by decide +kernel)⟩

theorem witness_LockIsHeldUntilAResolvingFrame :
    (pumping writing).inflight = some first ∧ ¬ReleasesLock (.ack 1) (pumping writing) ∧
      ∃ t, exec (.ack 1) (pumping writing) = .next t ∧ (t.seqtab.length = 1 : Bool) = true := by
  refine ⟨rfl, ?_, next_of_after (by decide +kernel)⟩
  rintro (h | h | ⟨h, _⟩) <;> cases h

theorem witness_AStepWritesAtMostOneFrame :
    ∃ t, step busy = .next t ∧ ((sentFrames t.out).length = 1 : Bool) = true := next_of_after (by decide +kernel)

theorem witness_CommandsReachTheWireInOrder :
    (busy.inflight = none → busy.fifo = []) ∧ ¬ResetIsNext busy ∧ ∃ t, step busy = .next t ∧ (t.pump = none : Bool) = true :=
  witness_steps

theorem witness_TransportLossIsFinal :
    idle.fatal = false ∧ (lost (pumping idle)).fatal = true ∧ (lost (pumping idle)).fault = none ∧
      (lost (pumping idle)).pump ≠ none ∧ ¬ResetIsNext (lost (pumping idle)) ∧ (lost idle).pump = none ∧
      ∃ t, step (lost (pumping idle)) = .next t ∧ (t.fatal : Bool) = true :=
  ⟨rfl, rfl, rfl, by decide +kernel, not_reset_of_nil rfl, rfl, next_of_after (by decide +kernel)⟩

/-- One byte more than the buffer holds, a CONNECT behind a full FIFO, an ACK for a full table, a payload one byte too
long. -/
def overRx : State := scheduled (.rx 0x41) { idle with rxbuf := List.replicate 22 0x41 }
def overQueue : State := scheduled (.host 0x00000002 []) waiting
def overSeq : State := { pumping (tabled idle) with rxbuf := onWire (text 16 0x0000000200C1103F) }
def overPayload : State := scheduled (.host 0x00000003 (text 5 0)) idle

/-- Each of the four capacity faults occurs in some step, from a state with the invariant. -/
theorem witness_FaultsOccurOnlyAtTheirCapacities :
    (overRx.Inv ∧ ∃ t, step overRx = .next t ∧ (t.fault = some .rxOverflow : Bool) = true) ∧
      (overQueue.Inv ∧ ∃ t, step overQueue = .next t ∧ (t.fault = some .queueOverflow : Bool) = true) ∧
      (overSeq.Inv ∧ ∃ t, step overSeq = .next t ∧ (t.fault = some .seqOverflow : Bool) = true) ∧
      (overPayload.Inv ∧ ∃ t, step overPayload = .next t ∧ (t.fault = some .payloadTooLong : Bool) = true) ∧
      overRx.fault = none ∧ overQueue.fault = none ∧ overSeq.fault = none ∧ overPayload.fault = none :=
  ⟨⟨inv_of_checks (by decide +kernel), next_of_after (by decide +kernel)⟩,
    ⟨inv_of_checks (by decide +kernel), next_of_after (by decide +kernel)⟩,
    ⟨inv_of_checks (by decide +kernel), next_of_after (by decide +kernel)⟩,
    ⟨inv_of_checks (by decide +kernel), next_of_after (by decide +kernel)⟩, rfl, rfl, rfl, rfl⟩

theorem witness_NoFaultOccursWithUnboundedCapacities :
    Unbounded State.reset.cfg ∧ State.reset.fault = none ∧
      ∃ t, step (scheduled (.rx 0x05) State.reset) = .next t ∧ (t.rxbuf = [0x05] : Bool) = true :=
  ⟨⟨rfl, rfl, rfl, rfl⟩, rfl, next_of_after (by decide +kernel)⟩

theorem witness_APumpGivesItsResultWhenItEnds :
    busy.pump ≠ none ∧ ¬ResetIsNext busy ∧ (∃ t, step busy = .next t ∧ (t.pump = none : Bool) = true) ∧
      ResetIsNext (scheduled .resetPin busy) :=
  ⟨by decide +kernel, witness_steps.2.1, witness_steps.2.2, [], Or.inl rfl⟩

theorem witness_StepKeepsParametersAndTakesOneEntry :
    ∃ t, step (scheduled (.host 0x00000005 []) idle) = .next t ∧ (t.sched = [] : Bool) = true :=
  next_of_after (by decide +kernel)

theorem witness_AnEnabledPumpFinishes :
    busy.sched = [] ∧ busy.pump = some { context with peek := some 1 } ∧ extractOne busy.rxbuf ≠ none ∧
      (lost (pumping idle)).sched = [] ∧ (lost (pumping idle)).fatal = true := by decide +kernel

end Sys2Proof.Tests
end

/-! PROOFS. Capacity faults (spec R8, R404): an instruction sets a fault only where one of the four capacities gives out, and
a capacity of INF never does. -/

namespace Sys2Proof.Machine

/-- The capacity that the cause names gives out when `i` runs in `s` (R404). -/
def CapacityExceeded (i : Instr) (s : State) : FaultCause → Prop
  | .rxOverflow => ¬HasRoom s.rxbuf.length s.cfg.rxDepth
  | .queueOverflow => ¬HasRoom s.fifo.length s.cfg.qDepth
  | .seqOverflow => ¬HasRoom s.seqtab.length s.cfg.seqDepth
  | .payloadTooLong => ∃ kind cb payload, i = .submit kind cb payload ∧ ¬Fits payload.length s.cfg.maxPayload

/-- An instruction run without a fault sets one only where the capacity it names gives out. -/
theorem fault_cases_of_effect {s t : State} {i : Instr} (he : Effect s i t) (hf : s.fault = none) :
    t.fault = none ∨ ∃ c, t.fault = some c ∧ CapacityExceeded i s c := by
  cases he with
  | hostOverflow _ _ _ _ _ hroom => exact .inr ⟨.queueOverflow, by simp, hroom⟩
  | tooLong kind cb payload _ hd => exact .inr ⟨.payloadTooLong, by simp, kind, cb, payload, rfl, hd⟩
  | seqOverflow _ _ _ _ hroom => exact .inr ⟨.seqOverflow, by simp, hroom⟩
  | busyOverflow _ _ _ _ hroom => exact .inr ⟨.queueOverflow, by simp, hroom⟩
  | initOverflow _ _ hroom => exact .inr ⟨.queueOverflow, by simp, hroom⟩
  | rxOverflow _ _ _ hroom => exact .inr ⟨.rxOverflow, by simp, hroom⟩
  | reset => exact .inl (by simp)
  | resolved => exact .inl hf
  | _ => exact .inl (by simp [hf])

theorem fits_inf (n : Nat) : Fits n none := fun _ h => nomatch h

theorem hasRoom_inf (n : Nat) : HasRoom n none := fun _ h => nomatch h

/-- R8: a capacity of INF never gives out. -/
theorem not_capacityExceeded_of_unbounded {s : State} (hu : Unbounded s.cfg) (i : Instr) (c : FaultCause) :
    ¬CapacityExceeded i s c := by
  obtain ⟨hrx, hq, hseq, hmax⟩ := hu
  cases c with
  | rxOverflow => simp [CapacityExceeded, hrx, hasRoom_inf]
  | queueOverflow => simp [CapacityExceeded, hq, hasRoom_inf]
  | seqOverflow => simp [CapacityExceeded, hseq, hasRoom_inf]
  | payloadTooLong => simp [CapacityExceeded, hmax, fits_inf]

theorem effect_keeps_no_fault_of_unbounded {s t : State} {i : Instr} (he : Effect s i t) (hu : Unbounded s.cfg)
    (hf : s.fault = none) : t.fault = none := by
  rcases fault_cases_of_effect he hf with h | ⟨c, _, hc⟩
  · exact h
  · exact absurd hc (not_capacityExceeded_of_unbounded hu i c)

/-- Settles O57: a step is a reset, an instruction's effect, or an update that leaves the fault as it was; only an effect
could set one, and with every capacity INF none does. -/
theorem noFaultOccursWithUnboundedCapacities : Obligations.NoFaultOccursWithUnboundedCapacities := by
  intro s t hu hf hstep
  rcases step_effect hstep with ⟨_, _, rfl, _⟩ | rfl | ⟨_, _, _, rfl⟩ | ⟨_, _, _, rfl⟩ |
    ⟨_, _, _, _, _, _, _, _, _, _, _, _, scheduled⟩ | ⟨_, _, _, _, _, _, _, _, _, _, received⟩
  · exact resetBlock_fault s
  · exact hf
  · exact hf
  · exact hf
  · exact effect_keeps_no_fault_of_unbounded scheduled hu hf
  · exact effect_keeps_no_fault_of_unbounded received hu hf

end Sys2Proof.Machine

/-! PROOFS. The state's invariants (spec R31 to R46): each update of the state keeps the invariant, so every effect and every
step does; the queue's rule (R35), the append-only trace (R40) and the sticky bits (R39) hold of every step; a resolving class
deletes its own key (R36, R305). -/

namespace Sys2Proof.Machine

/-! ## Capacities and extraction -/

theorem fits_zero (c : Capacity) : Fits 0 c := fun m _ => Nat.zero_le m

theorem fits_of_le {m n : Nat} {c : Capacity} (hle : m ≤ n) (h : Fits n c) : Fits m c :=
  fun k hk => hle.trans (h k hk)

/-- Where a capacity has room, one item more still fits. -/
theorem fits_succ_of_hasRoom {n : Nat} {c : Capacity} (h : HasRoom n c) : Fits (n + 1) c := h

/-- An extraction leaves no more bytes than there were (R155). -/
theorem extractOne_rest_length_le {b body rest : Bytes} (h : extractOne b = some (body, rest)) :
    rest.length ≤ b.length := by
  unfold extractOne at h
  split at h
  · cases h
  · cases h; simp

/-- A fault sets its cause and ends the PUMP, with a Result if one was active (R404). -/
theorem raiseFault_eq (c : FaultCause) (s : State) :
    raiseFault c s =
      { s with
        fault := some c
        pump := none
        out := s.out ++ if s.pump.isSome then [.result .faulted] else [] } := by
  obtain ⟨rx, fifo, inf, tab, pump, fatal, fault, out, rep, sched, cfg⟩ := s
  cases pump <;> simp [raiseFault, finish, emit]

/-! ## Each update of the state keeps the invariant -/

/-- A state whose storage is empty and that has no PUMP meets the invariant. -/
theorem inv_of_empty {s : State} (hlegal : s.cfg.legal = true) (hrx : s.rxbuf = []) (hfifo : s.fifo = [])
    (hinflight : s.inflight = none) (htab : s.seqtab = []) (hpump : s.pump = none) : s.Inv where
  legal := hlegal
  rxbufFits := by rw [hrx]; exact fits_zero _
  fifoFits := by rw [hfifo]; exact fits_zero _
  seqtabFits := by rw [htab]; exact fits_zero _
  payloadsFit := by simp [hinflight, hfifo]
  queue := fun _ => hfifo
  seqtabWf := by rw [htab]; exact List.Pairwise.nil
  received := by simp [htab]
  faultEndsPump := fun _ => hpump
  peekRecorded := by simp [hpump]

section
variable {s : State}

theorem resetBlock_keeps_inv (h : s.Inv) : (resetBlock s).Inv := inv_of_empty h.legal rfl rfl rfl rfl rfl

/-- The invariant speaks neither of the model's own schedule and results nor of the trace and `fatal`. -/
theorem setUnread_keeps_inv (h : s.Inv) (out : List Event) (replies : List HostResult) (sched : List Action)
    (fatal : Bool) : State.Inv { s with out := out, replies := replies, sched := sched, fatal := fatal } := { h with }

theorem reply_keeps_inv (h : s.Inv) (r : HostResult) : (reply r s).Inv := setUnread_keeps_inv h ..

theorem transmit_keeps_inv (h : s.Inv) (p : Bytes) : (transmit p s).Inv := setUnread_keeps_inv h ..

theorem closePump_keeps_inv (h : s.Inv) (fault : Option FaultCause) (out : List Event) :
    State.Inv { s with pump := none, fault := fault, out := out } :=
  { h with faultEndsPump := fun _ => rfl, peekRecorded := by simp }

theorem finish_keeps_inv (h : s.Inv) (o : PumpOutcome) : (finish o s).Inv := closePump_keeps_inv h ..

theorem raiseFault_keeps_inv (h : s.Inv) (c : FaultCause) : (raiseFault c s).Inv := by
  rw [raiseFault_eq]
  exact closePump_keeps_inv h ..

/-- A new PUMP has consumed no ACK, and none opens under a fault. -/
theorem openPump_keeps_inv (h : s.Inv) (tmo : Bool) (hf : s.fault = none) :
    State.Inv { s with pump := some (pumpContext tmo) } :=
  { h with
    faultEndsPump := fun hne => absurd hf hne
    peekRecorded := by
      intro ctx q hctx hpeek
      cases hctx
      cases hpeek }

theorem write_keeps_inv {d : Descriptor} (h : s.Inv) (hd : Fits d.payload.length s.cfg.maxPayload) :
    (write d s).Inv :=
  { h with
    payloadsFit := by
      rintro d' (hd' | hd')
      · cases hd'
        exact hd
      · exact h.payloadsFit d' (.inr hd')
    queue := fun hn => nomatch hn }

theorem append_keeps_inv {d : Descriptor} (h : s.Inv) (hd : Fits d.payload.length s.cfg.maxPayload)
    (hn : s.inflight ≠ none) (hroom : HasRoom s.fifo.length s.cfg.qDepth) :
    State.Inv { s with fifo := s.fifo ++ [d] } :=
  { h with
    fifoFits := by simpa using fits_succ_of_hasRoom hroom
    payloadsFit := by
      intro d' hd'
      simp only [List.mem_append, List.mem_singleton] at hd'
      rcases hd' with hd' | hd' | rfl
      · exact h.payloadsFit d' (.inl hd')
      · exact h.payloadsFit d' (.inr hd')
      · exact hd
    queue := fun hn' => absurd hn' hn }

/-- A write to the table adds an entry only where there is room for it (R310). -/
theorem seqInsert_keeps_fits {q : Seq} (h : s.Inv) (e : SeqEntry)
    (hroom : seqLookup q s.seqtab ≠ none ∨ HasRoom s.seqtab.length s.cfg.seqDepth) :
    Fits (seqInsert q e s.seqtab).length s.cfg.seqDepth := by
  rw [seqInsert_length q e h.seqtabWf]
  rcases hroom with hpresent | hroom
  · simpa [hpresent] using h.seqtabFits
  · split
    · exact fits_succ_of_hasRoom hroom
    · exact h.seqtabFits

theorem ack_keeps_inv {q : Seq} (h : s.Inv) (ctx : PumpCtx) (kind : Option Kind) (hf : s.fault = none)
    (hroom : seqLookup q s.seqtab ≠ none ∨ HasRoom s.seqtab.length s.cfg.seqDepth) :
    State.Inv
      { s with
        seqtab := seqInsert q { kind := kind, receivedOk := true } s.seqtab
        pump := some { ctx with peek := some q } } :=
  { h with
    seqtabFits := seqInsert_keeps_fits h _ hroom
    seqtabWf := seqInsert_wf q _ h.seqtabWf
    received := by
      intro ke hke
      rcases mem_seqInsert hke with rfl | hke
      · rfl
      · exact h.received ke hke
    faultEndsPump := fun hne => absurd hf hne
    peekRecorded := by
      intro ctx' q' hctx hpeek
      cases hctx
      cases hpeek
      simp [seqLookup_seqInsert] }

/-- Where a resolution finds no command to write next, none waits after it (R256). -/
theorem tail_eq_nil_of_head?_eq_none {fifo : List Descriptor} (h : fifo.head? = none) : fifo.tail = [] := by
  rw [List.head?_eq_none_iff.mp h, List.tail_nil]

theorem resolvedState_keeps_inv (h : s.Inv) (q : Seq) (st : CStatus) (o : PumpOutcome) :
    (resolvedState q st o s).Inv where
  legal := h.legal
  rxbufFits := h.rxbufFits
  fifoFits := fits_of_le (by simp [resolvedState]) h.fifoFits
  seqtabFits := fits_of_le (seqDelete_length_le q s.seqtab) h.seqtabFits
  payloadsFit := by
    rintro d (hd | hd)
    · exact h.payloadsFit d (.inr (List.mem_of_mem_head? hd))
    · exact h.payloadsFit d (.inr (List.mem_of_mem_tail hd))
  queue := tail_eq_nil_of_head?_eq_none
  seqtabWf := seqDelete_wf q h.seqtabWf
  received := fun ke hke => h.received ke (List.mem_of_mem_filter hke)
  faultEndsPump := fun _ => rfl
  peekRecorded := by simp [resolvedState]

theorem setRxbuf_keeps_inv {rxbuf : Bytes} (h : s.Inv) (hfits : Fits rxbuf.length s.cfg.rxDepth) :
    State.Inv { s with rxbuf := rxbuf } := { h with rxbufFits := hfits }

end

/-- Every effect of an instruction keeps the invariant. -/
theorem effect_keeps_inv {s t : State} {i : Instr} (he : Effect s i t) (h : s.Inv) : t.Inv := by
  have hinit : Fits (initDescriptor s.cfg).payload.length s.cfg.maxPayload := initDescriptor_fits h.legal
  cases he with
  | returned => exact reply_keeps_inv h _
  | reset => exact reply_keeps_inv (resetBlock_keeps_inv h) _
  | opened tmo hr => exact openPump_keeps_inv h tmo hr.2.1
  | written _ _ _ _ _ _ hd => exact reply_keeps_inv (write_keeps_inv h (hd h.legal)) _
  | queued _ _ _ _ _ _ hd hn hroom => exact reply_keeps_inv (append_keeps_inv h (hd h.legal) hn hroom) _
  | hostOverflow => exact reply_keeps_inv (raiseFault_keeps_inv h _) _
  | tooLong => exact reply_keeps_inv (raiseFault_keeps_inv h _) _
  | acked _ ctx hr hroom => exact ack_keeps_inv h ctx _ hr.2.1 hroom
  | seqOverflow => exact raiseFault_keeps_inv h _
  | busyWritten => exact finish_keeps_inv (write_keeps_inv h hinit) _
  | busyQueued _ _ _ hn hroom => exact finish_keeps_inv (append_keeps_inv h hinit hn hroom) _
  | busyOverflow => exact raiseFault_keeps_inv h _
  | resolved => exact resolvedState_keeps_inv h _ _ _
  | finished => exact finish_keeps_inv h _
  | initWritten => exact write_keeps_inv h hinit
  | initQueued _ hn hroom => exact append_keeps_inv h hinit hn hroom
  | initOverflow => exact raiseFault_keeps_inv h _
  | framed => exact transmit_keeps_inv h _
  | byteLost => exact h
  | byteReceived _ _ _ hroom => exact setRxbuf_keeps_inv h (by simpa using fits_succ_of_hasRoom hroom)
  | rxOverflow => exact raiseFault_keeps_inv h _
  | linkFailed => exact setUnread_keeps_inv h ..

/-- Settles O48: a step is a reset, a wait, a result, the end of a PUMP, or an effect, on the state without the scheduled
entry or the extracted frame, and each of these keeps the invariant. -/
theorem stepKeepsTheInvariant : Obligations.StepKeepsTheInvariant := by
  intro s t h hstep
  have htail : State.Inv { s with sched := s.sched.tail } := setUnread_keeps_inv h ..
  rcases step_effect hstep with ⟨_, _, rfl, _⟩ | rfl | ⟨_, _, r, rfl⟩ | ⟨_, _, o, rfl⟩ |
    ⟨_, _, _, _, _, _, _, _, _, _, _, _, scheduled⟩ | ⟨_, _, _, _, _, _, _, hextract, _, _, received⟩
  · exact setUnread_keeps_inv (resetBlock_keeps_inv h) ..
  · exact htail
  · exact reply_keeps_inv htail r
  · exact finish_keeps_inv htail o
  · exact effect_keeps_inv scheduled htail
  · have hrest := fits_of_le (extractOne_rest_length_le hextract) h.rxbufFits
    exact effect_keeps_inv received (setRxbuf_keeps_inv htail hrest)

/-- Settles O47: with nothing stored the invariant asks only for legal parameters. -/
theorem powerOnMeetsTheInvariant : Obligations.PowerOnMeetsTheInvariant := by
  have hpowerOn : ∀ p : Params, p.legal = true → (State.resetWith p).Inv :=
    fun _ hp => inv_of_empty hp rfl rfl rfl rfl rfl
  exact ⟨hpowerOn, hpowerOn Params.unbounded rfl⟩

/-! ## The queue -/

/-- R35 through an effect: a write puts a command in flight, an append finds one there, a resolution takes the head of the
FIFO, and no other effect but a reset touches the queue. -/
theorem effect_keeps_queue {s t : State} {i : Instr} (he : Effect s i t) (h : s.inflight = none → s.fifo = []) :
    t.inflight = none → t.fifo = [] := by
  cases he with
  | reset => simp
  | written => simp
  | busyWritten => simp
  | initWritten => simp
  | queued _ _ _ _ _ _ _ hn => exact fun hn' => absurd hn' hn
  | busyQueued _ _ _ hn => exact fun hn' => absurd hn' hn
  | initQueued _ hn => exact fun hn' => absurd hn' hn
  | resolved => exact tail_eq_nil_of_head?_eq_none
  | _ => simpa using h

/-- Settles O49: the steps that are no effect leave the queue as it is, or reset it. -/
theorem noCommandWaitsWhileNothingIsInFlight : Obligations.NoCommandWaitsWhileNothingIsInFlight := by
  intro s t h hstep
  rcases step_effect hstep with ⟨_, _, rfl, _⟩ | rfl | ⟨_, _, _, rfl⟩ | ⟨_, _, _, rfl⟩ |
    ⟨_, _, _, _, _, _, _, _, _, _, _, _, scheduled⟩ | ⟨_, _, _, _, _, _, _, _, _, _, received⟩
  · exact fun _ => resetBlock_fifo s
  · exact h
  · exact h
  · exact h
  · exact effect_keeps_queue scheduled h
  · exact effect_keeps_queue received h

/-! ## The trace and the host's results -/

/-- R40 through an effect: what the trace held stays at its front. -/
theorem effect_out_prefix {s t : State} {i : Instr} (he : Effect s i t) : s.out <+: t.out := by
  cases he with
  | hostOverflow => simp [raiseFault_out]
  | tooLong => simp [raiseFault_out]
  | seqOverflow => simp [raiseFault_out]
  | busyOverflow => simp [raiseFault_out]
  | initOverflow => simp [raiseFault_out]
  | rxOverflow => simp [raiseFault_out]
  | resolved => exact List.prefix_append _ _
  | _ => simp

/-- An effect returns at most one result to the host (R363). -/
theorem effect_replies {s t : State} {i : Instr} (he : Effect s i t) :
    ∃ rs, t.replies = s.replies ++ rs ∧ rs.length ≤ 1 := by
  cases he with
  | returned _ r => exact ⟨[r], by simp⟩
  | reset => exact ⟨[.ok], by simp⟩
  | written => exact ⟨[.ok], by simp⟩
  | queued => exact ⟨[.ok], by simp⟩
  | hostOverflow => exact ⟨[.faulted], by simp⟩
  | tooLong => exact ⟨[.faulted], by simp⟩
  | resolved => exact ⟨[], by simp [resolvedState]⟩
  | _ => exact ⟨[], by simp⟩

theorem effect_appends {s t : State} {i : Instr} (he : Effect s i t) :
    (∃ evs, t.out = s.out ++ evs) ∧ ∃ rs, t.replies = s.replies ++ rs ∧ rs.length ≤ 1 :=
  ⟨(effect_out_prefix he).imp fun _ => Eq.symm, effect_replies he⟩

/-- Settles O50: an effect appends, and so does each of the other steps: the end of a PUMP its one event, a turned-away word
its one result. -/
theorem traceIsAppendOnly : Obligations.TraceIsAppendOnly := by
  intro s t hstep
  rcases step_effect hstep with ⟨_, rs, rfl, hrs⟩ | rfl | ⟨_, _, r, rfl⟩ | ⟨_, _, o, rfl⟩ |
    ⟨_, _, _, _, _, _, _, _, _, _, _, _, scheduled⟩ | ⟨_, _, _, _, _, _, _, _, _, _, received⟩
  · exact ⟨⟨[], by simp⟩, rs, rfl, hrs⟩
  · exact ⟨⟨[], by simp⟩, [], by simp⟩
  · exact ⟨⟨[], by simp⟩, [r], by simp⟩
  · exact ⟨⟨[.result o], by simp⟩, [], by simp⟩
  · exact (effect_appends scheduled :)
  · exact (effect_appends received :)

/-! ## The sticky bits -/

theorem effect_keeps_fatal {s t : State} {i : Instr} (he : Effect s i t) (hr : i ≠ .reset) (h : s.fatal = true) :
    t.fatal = true := by
  cases he with
  | reset => exact absurd rfl hr
  | linkFailed => rfl
  | resolved => exact h
  | _ => simpa using h

theorem fault_eq_none_of_canSend {s : State} (h : canSend s = true) : s.fault = none := by
  simp only [canSend, Bool.and_eq_true, Bool.not_eq_true', Option.isSome_eq_false_iff, Option.isNone_iff_eq_none] at h
  exact h.1

/-- A fault keeps its cause: an instruction raises one only where none is set. -/
theorem effect_keeps_fault {s t : State} {i : Instr} {c : FaultCause} (he : Effect s i t) (hr : i ≠ .reset)
    (h : s.fault = some c) : t.fault = some c := by
  have hset : s.fault ≠ none := by simp [h]
  cases he with
  | reset => exact absurd rfl hr
  | hostOverflow _ _ _ hready => exact absurd hready.2.1 hset
  | tooLong _ _ _ hready => exact absurd hready.2.1 hset
  | seqOverflow _ _ hready => exact absurd hready.2.1 hset
  | busyOverflow _ _ hready => exact absurd hready.2.1 hset
  | initOverflow hsend => exact absurd (fault_eq_none_of_canSend hsend) hset
  | rxOverflow _ hf => exact absurd hf hset
  | resolved => exact h
  | _ => simpa using h

/-- No frame decodes to the host's RESET. -/
theorem ne_reset_of_isReceived {i : Instr} (h : IsReceived i) : i ≠ .reset := by
  rintro rfl
  simp [IsReceived, isResolving] at h

theorem effect_keeps_sticky {s t : State} {i : Instr} (he : Effect s i t) (hr : i ≠ .reset) :
    (s.fatal = true → t.fatal = true) ∧ ∀ c, s.fault = some c → t.fault = some c :=
  ⟨effect_keeps_fatal he hr, fun _ => effect_keeps_fault he hr⟩

/-- Settles O51: outside a reset every step is an effect of an instruction other than RESET, or leaves both bits as they
are. -/
theorem stickyBitsLastUntilReset : Obligations.StickyBitsLastUntilReset := by
  intro s t hstep hnext
  rcases step_effect hstep with ⟨hreset, _⟩ | rfl | ⟨_, _, _, rfl⟩ | ⟨_, _, _, rfl⟩ |
    ⟨_, _, _, _, _, hr, _, _, _, _, _, _, scheduled⟩ | ⟨_, _, _, _, _, _, _, _, _, hi, received⟩
  · exact absurd hreset hnext
  · exact ⟨id, fun _ => id⟩
  · exact ⟨id, fun _ => id⟩
  · exact ⟨id, fun _ => id⟩
  · exact (effect_keeps_sticky scheduled hr :)
  · exact (effect_keeps_sticky received (ne_reset_of_isReceived hi) :)

/-! ## The table entry of a resolved request -/

/-- The delete is all that a resolution does to the table (R36). -/
theorem resolve_seqtab (q : Seq) (st : CStatus) (o : PumpOutcome) (s : State) :
    (resolve q st o s).seqtab = seqDelete q s.seqtab := by
  rw [resolve_eq]
  rfl

/-- Settles O33: each of the nine classes runs `resolve` on its own key, whose only change to the table is the delete. -/
theorem resolvingDeletesOnlyItsKey : Obligations.ResolvingDeletesOnlyItsKey := by
  intro i q bytes ctx s hready hi
  have hexec : ∃ st o, exec i s = .next (resolve q st o s) := by
    simp only [List.mem_cons, List.not_mem_nil, or_false] at hi
    rcases hi with rfl | rfl | rfl | rfl | rfl | rfl | rfl | rfl | rfl <;>
      exact ⟨_, _, inPumpStep_of_ready _ hready⟩
  obtain ⟨st, o, he⟩ := hexec
  refine ⟨_, he, ?_⟩
  rw [resolve_seqtab]
  refine ⟨?_, fun k hk => ?_, seqDelete_wf q⟩
  · simp [seqLookup_seqDelete]
  · simp [seqLookup_seqDelete, hk.symm]

end Sys2Proof.Machine

/-! PROOFS. The host command words (spec R108 to R111): a word that fits a row of R109 has the row's OP, so no word fits two
rows; `decodeHost` reads a table of the rows with their instructions; a word is the `commandWord` of its own fields. -/

namespace Sys2Proof.Machine

/-! ## The rows of R109 -/

theorem HostRow.fits_iff (r : HostRow) (w : Word) : r.fits w = true ↔ w &&& r.mask = r.pattern := by
  simp [HostRow.fits]

/-- A run of bits that a mask covers is fixed by the pattern. -/
theorem extractLsb'_eq_of_mask {w m p : Word} (start len : Nat) (h : w &&& m = p)
    (hm : m.extractLsb' start len = BitVec.allOnes len) : w.extractLsb' start len = p.extractLsb' start len := by
  rw [← h, BitVec.extractLsb'_and, hm, BitVec.and_allOnes]

theorem getLsbD_eq_of_mask {w m p : Word} (i : Nat) (h : w &&& m = p) (hm : m.getLsbD i = true) :
    w.getLsbD i = p.getLsbD i := by
  rw [← h, BitVec.getLsbD_and, hm, Bool.and_true]

/-- Every row fixes OP, bits 7 to 0 (R108). -/
theorem op_eq_of_fits {w : Word} {r : HostRow} (hr : r ∈ hostRows) (h : w &&& r.mask = r.pattern) :
    w.extractLsb' 0 8 = r.pattern.extractLsb' 0 8 := by
  have hmask : ∀ r ∈ hostRows, r.mask.extractLsb' 0 8 = BitVec.allOnes 8 := by decide
  exact extractLsb'_eq_of_mask 0 8 h (hmask r hr)

/-- OP tells the rows apart (R109). -/
theorem eq_of_op_eq : ∀ r ∈ hostRows, ∀ r' ∈ hostRows,
    r.pattern.extractLsb' 0 8 = r'.pattern.extractLsb' 0 8 → r = r' := by decide

theorem op_of_mem_hostRows : ∀ r ∈ hostRows,
    r.pattern.extractLsb' 0 8 ≠ 0 ∧ (r.pattern.extractLsb' 0 8).toNat < 8 := by decide

theorem row_unique {w : Word} {r r' : HostRow} (hr : r ∈ hostRows) (hr' : r' ∈ hostRows)
    (h : w &&& r.mask = r.pattern) (h' : w &&& r'.mask = r'.pattern) : r = r' :=
  eq_of_op_eq r hr r' hr' ((op_eq_of_fits hr h).symm.trans (op_eq_of_fits hr' h'))

/-! ## Decoding by rows -/

/-- The rows of R109, each with the instruction it stands for (R110). -/
def hostTable (w : Word) (arg : Bytes) : List (HostRow × Instr) :=
  [(rowReset, .reset), (rowConnect, .connect), (rowSubmit, .submit (kindField w) (cbField w) arg),
   (rowPump, .pump (tmoField w)), (rowStatus, .status), (rowRxcount, .rxcount), (rowCrc16, .crc16 arg)]

theorem mem_hostRows_iff {w : Word} {arg : Bytes} {r : HostRow} :
    r ∈ hostRows ↔ ∃ i, (r, i) ∈ hostTable w arg := by
  simp [hostRows, hostTable, exists_or]

theorem decodeHost_of_fits {w : Word} {arg : Bytes} {r : HostRow} {i : Instr} (hmem : (r, i) ∈ hostTable w arg)
    (h : w &&& r.mask = r.pattern) : decodeHost w arg = .ok i := by
  have hr : r ∈ hostRows := mem_hostRows_iff.mpr ⟨i, hmem⟩
  have hfits : ∀ r' ∈ hostRows, r'.fits w = decide (r' = r) := by
    intro r' hr'
    rw [Bool.eq_iff_iff, HostRow.fits_iff, decide_eq_true_iff]
    exact ⟨fun h' => row_unique hr' hr h' h, fun heq => heq ▸ h⟩
  simp only [hostTable, List.mem_cons, Prod.mk.injEq, List.not_mem_nil, or_false] at hmem
  rcases hmem with ⟨rfl, rfl⟩ | ⟨rfl, rfl⟩ | ⟨rfl, rfl⟩ | ⟨rfl, rfl⟩ | ⟨rfl, rfl⟩ | ⟨rfl, rfl⟩ | ⟨rfl, rfl⟩ <;>
    simp (disch := decide) only [decodeHost, hfits] <;> rfl

theorem fits_of_decodeHost {w : Word} {arg : Bytes} {i : Instr} (h : decodeHost w arg = .ok i) :
    ∃ r, (r, i) ∈ hostTable w arg ∧ w &&& r.mask = r.pattern := by
  simp only [← HostRow.fits_iff]
  unfold decodeHost at h
  repeat' split at h
  all_goals cases h
  · exact ⟨rowReset, by simp [hostTable], ‹_›⟩
  · exact ⟨rowConnect, by simp [hostTable], ‹_›⟩
  · exact ⟨rowSubmit, by simp [hostTable], ‹_›⟩
  · exact ⟨rowPump, by simp [hostTable], ‹_›⟩
  · exact ⟨rowStatus, by simp [hostTable], ‹_›⟩
  · exact ⟨rowRxcount, by simp [hostTable], ‹_›⟩
  · exact ⟨rowCrc16, by simp [hostTable], ‹_›⟩

theorem decodeHost_eq_ok_iff {w : Word} {arg : Bytes} {i : Instr} :
    decodeHost w arg = .ok i ↔ ∃ r, (r, i) ∈ hostTable w arg ∧ w &&& r.mask = r.pattern :=
  ⟨fits_of_decodeHost, fun ⟨_, hmem, h⟩ => decodeHost_of_fits hmem h⟩

/-- R109, R111: a word decodes exactly when it fits a row. -/
theorem exists_decodeHost_iff (w : Word) (arg : Bytes) :
    (∃ i, decodeHost w arg = .ok i) ↔ ∃ r ∈ hostRows, w &&& r.mask = r.pattern := by
  simp only [decodeHost_eq_ok_iff, mem_hostRows_iff (w := w) (arg := arg)]
  exact ⟨fun ⟨i, r, hmem, h⟩ => ⟨r, ⟨i, hmem⟩, h⟩, fun ⟨r, ⟨i, hmem⟩, h⟩ => ⟨i, r, hmem, h⟩⟩

/-- A word that fits no row is rejected. -/
theorem decodeHost_rejects {w : Word} (arg : Bytes) (h : ∀ r ∈ hostRows, w &&& r.mask ≠ r.pattern) :
    ∃ e, decodeHost w arg = .reject e := by
  cases hd : decodeHost w arg with
  | reject e => exact ⟨e, rfl⟩
  | ok i =>
    obtain ⟨r, hr, hfits⟩ := (exists_decodeHost_iff w arg).mp ⟨i, hd⟩
    exact absurd hfits (h r hr)

/-- Settles O3: two rows that a word fits have its OP, and OP tells the rows apart. -/
theorem commandRowsAreDisjointAndDecodingFollowsThem : Obligations.CommandRowsAreDisjointAndDecodingFollowsThem :=
  ⟨fun _ _ hr _ hr' h h' => row_unique hr hr' h h', exists_decodeHost_iff⟩

/-- Settles O4: each clause is one line of the table of rows. -/
theorem commandFieldsAreReadFromTheirBits : Obligations.CommandFieldsAreReadFromTheirBits := by
  intro w arg
  have hrow : ∀ r i, (r, i) ∈ hostTable w arg → w &&& r.mask = r.pattern → decodeHost w arg = .ok i :=
    fun _ _ => decodeHost_of_fits
  exact ⟨hrow rowReset .reset (by simp [hostTable]), hrow rowConnect .connect (by simp [hostTable]),
    hrow rowStatus .status (by simp [hostTable]), hrow rowRxcount .rxcount (by simp [hostTable]),
    hrow rowSubmit (.submit (kindField w) (cbField w) arg) (by simp [hostTable]),
    hrow rowPump (.pump (tmoField w)) (by simp [hostTable]), hrow rowCrc16 (.crc16 arg) (by simp [hostTable])⟩

/-- Settles O24: a row that a word fits has its OP, which is 1 to 7 and no other row's; and a word that fits no row is
rejected, so its issue only returns ILLEGAL. -/
theorem illegalWordReturnsIllegalAndChangesNothing : Obligations.IllegalWordReturnsIllegalAndChangesNothing := by
  refine ⟨fun w hop r hr h => ?_, fun w r hr hop hne r' hr' h => ?_, fun w arg rest s hsched hpump hillegal => ?_⟩
  · have hrange := op_of_mem_hostRows r hr
    rw [← op_eq_of_fits hr h] at hrange
    rcases hop with hzero | hlarge
    · exact hrange.1 hzero
    · exact absurd hrange.2 (Nat.not_lt.mpr hlarge)
  · have hsame : r = r' := eq_of_op_eq r hr r' hr' (hop.symm.trans (op_eq_of_fits hr' h))
    exact hne (hsame ▸ h)
  · obtain ⟨e, he⟩ := decodeHost_rejects arg hillegal
    have hissue : issueIllegal { s with sched := rest } = .next (reply .illegal { s with sched := rest }) :=
      hostCall_of_free _ hpump
    simp only [step, fetchAction_cons hsched, runAction, actionCode, decode, he, hissue]
    rfl

/-! ## Command words and their fields -/

theorem ofBool_getLsbD (w : Word) (i : Nat) : BitVec.ofBool (w.getLsbD i) = w.extractLsb' i 1 := by
  ext j hj
  obtain rfl : j = 0 := by omega
  simp

/-- A word whose reserved bits are 0 is the command word of its fields (R108). -/
theorem commandWord_of_fields {w : Word} (h : w.extractLsb' 18 14 = 0) :
    commandWord (w.extractLsb' 0 8) (kindField w) (cbField w) (tmoField w) = w := by
  have hreserved : (0#14 : BitVec 14) = w.extractLsb' 18 14 := h.symm
  have happend : ∀ start len start' len', start' = start + len →
      w.extractLsb' start' len' ++ w.extractLsb' start len = w.extractLsb' start (len' + len) :=
    fun _ _ _ _ => BitVec.extractLsb'_append_extractLsb'_eq_extractLsb'
  simp only [commandWord, kindField, cbField, tmoField, ofBool_getLsbD, hreserved]
  rw [happend 17 1 18 14 rfl, happend 16 1 17 (14 + 1) rfl, happend 8 8 16 (14 + 1 + 1) rfl,
    happend 0 8 8 (14 + 1 + 1 + 8) rfl]
  exact BitVec.extractLsb'_eq_self

@[simp] theorem kindField_commandWord (op : BitVec 8) (kind : Kind) (cb tmo : Bool) :
    kindField (commandWord op kind cb tmo) = kind := by
  unfold kindField commandWord
  ext i hi
  simp only [BitVec.getElem_extractLsb', BitVec.getLsbD_append]
  simp [hi]

@[simp] theorem cbField_commandWord (op : BitVec 8) (kind : Kind) (cb tmo : Bool) :
    cbField (commandWord op kind cb tmo) = cb := by
  simp only [cbField, commandWord, BitVec.getLsbD_append]
  simp

@[simp] theorem tmoField_commandWord (op : BitVec 8) (kind : Kind) (cb tmo : Bool) :
    tmoField (commandWord op kind cb tmo) = tmo := by
  simp only [tmoField, commandWord, BitVec.getLsbD_append]
  simp

/-- A mask acts on a command word field by field. -/
theorem commandWord_and (op op' : BitVec 8) (kind kind' : Kind) (cb cb' tmo tmo' : Bool) (reserved : BitVec 14) :
    commandWord op kind cb tmo &&&
        (reserved ++ BitVec.ofBool tmo' ++ BitVec.ofBool cb' ++ kind' ++ op' : BitVec (14 + 1 + 1 + 8 + 8)) =
      commandWord (op &&& op') (kind &&& kind') (cb && cb') (tmo && tmo') := by
  change ((0#14 ++ BitVec.ofBool tmo ++ BitVec.ofBool cb ++ kind ++ op : BitVec (14 + 1 + 1 + 8 + 8)) &&& _ :
    BitVec (14 + 1 + 1 + 8 + 8)) = _
  simp only [BitVec.and_append, BitVec.ofBool_and_ofBool, BitVec.zero_and]
  rfl

theorem commandWord_fits_submit (kind : Kind) (cb : Bool) :
    commandWord 0x03 kind cb false &&& rowSubmit.mask = rowSubmit.pattern := by
  have hmask : rowSubmit.mask =
      BitVec.allOnes 14 ++ BitVec.ofBool true ++ BitVec.ofBool false ++ 0#8 ++ BitVec.allOnes 8 := by decide
  calc commandWord 0x03 kind cb false &&& rowSubmit.mask
      = commandWord (0x03 &&& BitVec.allOnes 8) (kind &&& 0#8) (cb && false) (false && true) := by
        rw [hmask]; exact commandWord_and ..
    _ = rowSubmit.pattern := by rw [BitVec.and_zero, Bool.and_false]; decide

theorem commandWord_fits_pump (tmo : Bool) : commandWord 0x04 0 false tmo &&& rowPump.mask = rowPump.pattern := by
  cases tmo <;> decide

/-! ## Decode and encode of the host commands -/

/-- A word that fits the row of SUBMIT is the word of its KIND and CB. -/
theorem commandWord_of_fits_submit {w : Word} (h : w &&& rowSubmit.mask = rowSubmit.pattern) :
    commandWord 0x03 (kindField w) (cbField w) false = w := by
  have hreserved : w.extractLsb' 18 14 = 0 := extractLsb'_eq_of_mask 18 14 h (by decide)
  have hop : w.extractLsb' 0 8 = 0x03 := extractLsb'_eq_of_mask 0 8 h (by decide)
  have htmo : tmoField w = false := getLsbD_eq_of_mask 17 h (by decide)
  simpa only [hop, htmo] using commandWord_of_fields hreserved

/-- A word that fits the row of PUMP is the word of its TMO. -/
theorem commandWord_of_fits_pump {w : Word} (h : w &&& rowPump.mask = rowPump.pattern) :
    commandWord 0x04 0 false (tmoField w) = w := by
  have hreserved : w.extractLsb' 18 14 = 0 := extractLsb'_eq_of_mask 18 14 h (by decide)
  have hop : w.extractLsb' 0 8 = 0x04 := extractLsb'_eq_of_mask 0 8 h (by decide)
  have hkind : kindField w = 0 := extractLsb'_eq_of_mask 8 8 h (by decide)
  have hcb : cbField w = false := getLsbD_eq_of_mask 16 h (by decide)
  simpa only [hop, hkind, hcb] using commandWord_of_fields hreserved

/-- A row without free bits fits its own pattern only. -/
theorem eq_pattern_of_fits {w : Word} {r : HostRow} (hr : r.mask = BitVec.allOnes 32) (h : w &&& r.mask = r.pattern) :
    r.pattern = w := by
  rw [← h, hr, BitVec.and_allOnes]

/-- Settles O2: the row a word fits gives it back, from the fields the instruction carries. -/
theorem decodedCommandWordsEncodeBack : Obligations.DecodedCommandWordsEncodeBack := by
  intro w arg i h
  obtain ⟨r, hmem, hfits⟩ := fits_of_decodeHost h
  simp only [hostTable, List.mem_cons, Prod.mk.injEq, List.not_mem_nil, or_false] at hmem
  rcases hmem with ⟨rfl, rfl⟩ | ⟨rfl, rfl⟩ | ⟨rfl, rfl⟩ | ⟨rfl, rfl⟩ | ⟨rfl, rfl⟩ | ⟨rfl, rfl⟩ | ⟨rfl, rfl⟩
  · exact .inr ⟨by simp, congrArg (Code.host · []) (eq_pattern_of_fits (by decide) hfits)⟩
  · exact .inr ⟨by simp, congrArg (Code.host · []) (eq_pattern_of_fits (by decide) hfits)⟩
  · exact .inl ⟨by simp, congrArg (Code.host · arg) (commandWord_of_fits_submit hfits)⟩
  · exact .inr ⟨by simp, congrArg (Code.host · []) (commandWord_of_fits_pump hfits)⟩
  · exact .inr ⟨by simp, congrArg (Code.host · []) (eq_pattern_of_fits (by decide) hfits)⟩
  · exact .inr ⟨by simp, congrArg (Code.host · []) (eq_pattern_of_fits (by decide) hfits)⟩
  · exact .inl ⟨by simp, congrArg (Code.host · arg) (eq_pattern_of_fits (by decide) hfits)⟩

theorem decodeHost_commandWord_submit (kind : Kind) (cb : Bool) (payload : Bytes) :
    decodeHost (commandWord 0x03 kind cb false) payload = .ok (.submit kind cb payload) :=
  decodeHost_of_fits (by simp [hostTable]) (commandWord_fits_submit kind cb)

theorem decodeHost_commandWord_pump (tmo : Bool) (arg : Bytes) :
    decodeHost (commandWord 0x04 0 false tmo) arg = .ok (.pump tmo) :=
  decodeHost_of_fits (by simp [hostTable]) (commandWord_fits_pump tmo)

end Sys2Proof.Machine

/-! PROOFS. Bodies and payloads (spec R100 to R107, R159, R301 to R303): a body verifies exactly when it is a payload with its
checksum; `Classifies` says once what `classify` answers, with the fields it reads; a pattern of R106 fits exactly the
payloads with those fields. -/

namespace Sys2Proof.Machine

/-! ## Hex digits (R203, R301) -/

theorem isHexAny_hexDigit : ∀ n : BitVec 4, isHexAny (hexDigit n) = true := by decide

theorem hexDigitValue_hexDigit : ∀ n : BitVec 4, hexDigitValue (hexDigit n) = n.toNat := by decide

theorem hex4_length (v : BitVec 16) : (hex4 v).length = 4 := rfl

/-- The rendering of a value reads back as it. -/
theorem hexval4_hex4 (v : BitVec 16) : hexval4 (hex4 v) = some v := by
  simp only [hex4, hexval4, isHexAny_hexDigit, hexDigitValue_hexDigit, Bool.and_self, if_true, Option.some.injEq]
  apply BitVec.eq_of_toNat_eq
  simp only [BitVec.toNat_ofNat, BitVec.extractLsb'_toNat, Nat.shiftRight_eq_div_pow]
  have := v.isLt
  omega

/-- Exactly the strings of four hex digits have a value. -/
theorem exists_hexval4_iff (t : Bytes) :
    (∃ s, hexval4 t = some s) ↔ t.length = 4 ∧ ∀ x ∈ t, isHexAny x = true := by
  unfold hexval4
  split
  · simp [and_assoc]
  · rename_i hshape
    refine iff_of_false (by simp) fun ⟨hlen, _⟩ => ?_
    obtain ⟨a, b, c, d, rfl⟩ := List.length_eq_four.mp hlen
    exact hshape a b c d rfl

/-! ## Frames and bodies (R100, R159) -/

theorem bodyOf_length (p : Bytes) : (bodyOf p).length = p.length + 4 := by simp [bodyOf, hex4_length]

/-- A body verifies exactly when it is a payload followed by its checksum. -/
theorem verify_eq_some_iff {body p : Bytes} : verify body = some p ↔ body = bodyOf p := by
  constructor
  · intro h
    unfold verify at h
    split at h
    · cases h
    · split at h
      · rename_i hcrc
        cases h
        rw [bodyOf, hcrc, List.take_append_drop]
      · cases h
  · rintro rfl
    unfold verify
    have htake : (bodyOf p).take ((bodyOf p).length - 4) = p := by simp [bodyOf, hex4_length]
    have hdrop : (bodyOf p).drop ((bodyOf p).length - 4) = hex4 (crc16 p) := by simp [bodyOf, hex4_length]
    rw [htake, hdrop, if_pos rfl, if_neg (by simp [bodyOf_length])]

/-- A payload with its checksum decodes to the class of the payload (R358). -/
theorem decodeBody_bodyOf (p : Bytes) : decodeBody (bodyOf p) = (classify p).toInstr p := by
  simp [decodeBody, verify_eq_some_iff.mpr rfl]

theorem encodeFrame_eq (p : Bytes) : encodeFrame p = preamble ++ (p ++ (hex4 (crc16 p) ++ term)) := by
  simp [encodeFrame, bodyOf]

/-- A slice that starts after `a` and ends with `b`. -/
theorem slice_append_of_eq {a b c : Bytes} {i j : Nat} (hi : i = a.length) (hj : j = a.length + b.length) :
    slice (a ++ (b ++ c)) i j = b := by
  subst hi hj
  simp [slice]

/-- Settles O11: the frame is the preamble, the payload, the checksum and the terminator, one after another. -/
theorem encodedFrameHasItsLayout : Obligations.EncodedFrameHasItsLayout := by
  intro p
  rw [encodeFrame_eq]
  refine ⟨?_, rfl, ?_, ?_, ?_⟩
  · simp [preamble, term, hex4_length]
  · exact slice_append_of_eq rfl (by simp [preamble])
  · rw [← List.append_assoc]
    exact slice_append_of_eq (by simp [preamble]; omega) (by simp [preamble, hex4_length]; omega)
  · rw [← List.append_assoc, ← List.append_assoc, ← List.append_nil term]
    exact slice_append_of_eq (by simp [preamble, hex4_length]; omega) (by simp [preamble, hex4_length, term]; omega)

/-- A wire frame is read back to its payload. -/
theorem decodeWire_encodeFrame (p : Bytes) : decodeWire (encodeFrame p) = .ok (.frame p) := by
  obtain ⟨hlen, -, hpayload, -, -⟩ := encodedFrameHasItsLayout p
  have hend : p.length + 10 - 6 = 4 + p.length := by omega
  have hwire : wirePayload (encodeFrame p) = p := by rw [wirePayload, hlen, hend, hpayload]
  simp [decodeWire, hwire]

/-! ## The fields of a payload (R105, R302) -/

/-- The payload has the opcode `op` and a sequence-number field that reads as `s`. -/
def HasFields (op : Bytes) (s : Seq) (p : Bytes) : Prop := opField p = op ∧ hexval4 (seqField p) = some s

theorem HasFields.length_le {op p : Bytes} {s : Seq} (h : HasFields op s p) : 8 ≤ p.length := by
  have hlen := ((exists_hexval4_iff _).mp ⟨s, h.2⟩).1
  simp only [seqField, slice, List.length_take, List.length_drop] at hlen
  omega

theorem respOpText_ne_opGeneric (op : RespOp) : respOpText op ≠ opGeneric := by cases op <;> decide

theorem respOpOf_respOpText (op : RespOp) : respOpOf (respOpText op) = some op := by cases op <;> decide

theorem respOpText_injective {op op' : RespOp} (h : respOpText op = respOpText op') : op = op' :=
  Option.some.inj (by rw [← respOpOf_respOpText op, h, respOpOf_respOpText])

theorem eq_respOpText_of_respOpOf {t : Bytes} {op : RespOp} (h : respOpOf t = some op) : t = respOpText op := by
  unfold respOpOf at h
  repeat' split at h
  all_goals cases h
  all_goals assumption

theorem classify_of_generic {p : Bytes} {s : Seq} (h : HasFields opGeneric s p) :
    classify p = classifyGeneric p s := by
  simp [classify, h.1, h.2, Nat.not_lt.mpr h.length_le]

theorem classify_of_terminal {p : Bytes} {op : RespOp} {s : Seq} (h : HasFields (respOpText op) s p) :
    classify p = .terminal op s := by
  simp [classify, h.1, h.2, Nat.not_lt.mpr h.length_le, respOpText_ne_opGeneric, respOpOf_respOpText]

theorem classify_of_no_seq {p : Bytes} (h : hexval4 (seqField p) = none) : classify p = .unrecognized := by
  simp [classify, h]

/-- Settles O7: the field has no value where a character is no hex digit, and the length is tested first. -/
theorem payloadsWithoutSequenceNumberAreUnrecognized : Obligations.PayloadsWithoutSequenceNumberAreUnrecognized := by
  refine fun p => ⟨fun ⟨x, hx, hhex⟩ => classify_of_no_seq ?_, fun hlen => by simp [classify, hlen]⟩
  by_contra hsome
  have hall := ((exists_hexval4_iff _).mp (Option.ne_none_iff_exists'.mp hsome)).2
  exact absurd (hall x hx) (by simp [hhex])

/-! ## What `classify` answers (R303) -/

/-- The classes of R303, each with what the payload has when `classify` answers it. -/
inductive Classifies (p : Bytes) : RxClass → Prop where
  | ack (s : Seq) (hfields : HasFields opGeneric s p) (hlen : p.length = 12) (hcode : codeField p = codeAck) :
      Classifies p (.ack s)
  | busy (s : Seq) (hfields : HasFields opGeneric s p) (hlen : p.length = 12) (hcode : codeField p = codeBusy) :
      Classifies p (.busy s)
  | error (s : Seq) (hfields : HasFields opGeneric s p) (hlen : p.length = 12) (hack : codeField p ≠ codeAck)
      (hbusy : codeField p ≠ codeBusy) : Classifies p (.error s (codeField p))
  | switchOn (s : Seq) (hfields : HasFields opGeneric s p) (hlen : p.length = 28) (hcode : codeField p = codeOn) :
      Classifies p (.switch s .on (addrField p))
  | switchOff (s : Seq) (hfields : HasFields opGeneric s p) (hlen : p.length = 28) (hcode : codeField p = codeOff) :
      Classifies p (.switch s .off (addrField p))
  | terminal (op : RespOp) (s : Seq) (hfields : HasFields (respOpText op) s p) : Classifies p (.terminal op s)
  /-- The opcode `0000` with neither the length of a code alone nor a switch code and the length of its address. -/
  | otherShape (s : Seq) (hfields : HasFields opGeneric s p) (hlen : p.length ≠ 12)
      (hon : ¬(p.length = 28 ∧ codeField p = codeOn)) (hoff : ¬(p.length = 28 ∧ codeField p = codeOff)) :
      Classifies p .unrecognized
  /-- No sequence number, or no opcode of R106 (R107). -/
  | noFields (hgeneric : ∀ s, ¬HasFields opGeneric s p) (hterminal : ∀ op s, ¬HasFields (respOpText op) s p) :
      Classifies p .unrecognized

theorem classifyGeneric_classifies {p : Bytes} {s : Seq} (h : HasFields opGeneric s p) :
    Classifies p (classifyGeneric p s) := by
  unfold classifyGeneric
  split
  · rename_i hlen
    split
    · exact .ack s h hlen ‹_›
    · split
      · exact .busy s h hlen ‹_›
      · exact .error s h hlen ‹_› ‹_›
  · split
    · rename_i hon
      exact .switchOn s h hon.1 hon.2
    · split
      · rename_i hoff
        exact .switchOff s h hoff.1 hoff.2
      · exact .otherShape s h ‹_› ‹_› ‹_›

theorem classify_of_no_fields {p : Bytes} (hgeneric : ∀ s, ¬HasFields opGeneric s p)
    (hterminal : ∀ op s, ¬HasFields (respOpText op) s p) : classify p = .unrecognized := by
  unfold classify
  split
  · rfl
  · split
    · rfl
    · rename_i s hseq
      rw [if_neg fun hop => hgeneric s ⟨hop, hseq⟩]
      split
      · rename_i op hop
        exact absurd ⟨eq_respOpText_of_respOpOf hop, hseq⟩ (hterminal op s)
      · rfl

/-- A payload has the opcode `0000`, or a terminal opcode, or neither. -/
theorem fields_cases (p : Bytes) :
    (∃ s, HasFields opGeneric s p) ∨ (∃ op s, HasFields (respOpText op) s p) ∨
      ((∀ s, ¬HasFields opGeneric s p) ∧ ∀ op s, ¬HasFields (respOpText op) s p) := by
  simp only [← not_exists]
  tauto

theorem classify_classifies (p : Bytes) : Classifies p (classify p) := by
  rcases fields_cases p with ⟨s, h⟩ | ⟨op, s, h⟩ | ⟨hgeneric, hterminal⟩
  · exact classify_of_generic h ▸ classifyGeneric_classifies h
  · exact classify_of_terminal h ▸ .terminal op s h
  · exact classify_of_no_fields hgeneric hterminal ▸ .noFields hgeneric hterminal

theorem classifies_of_eq {p : Bytes} {c : RxClass} (h : classify p = c) : Classifies p c := h ▸ classify_classifies p

/-- Settles O8: `Classifies` names the fields of each class, and a verified body decodes to its class. -/
theorem classesCarryTheirFields : Obligations.ClassesCarryTheirFields := by
  intro p q code addr st op
  rw [decodeBody_bodyOf]
  refine ⟨fun h => ?_, fun h => ?_, fun h => ?_, fun h => ?_, fun h => ?_, fun h => ?_⟩ <;> rw [h]
  · cases classifies_of_eq h with
    | ack _ hfields => exact ⟨hfields.1, hfields.2, rfl⟩
  · cases classifies_of_eq h with
    | busy _ hfields => exact ⟨hfields.1, hfields.2, rfl⟩
  · cases classifies_of_eq h with
    | error _ hfields => exact ⟨hfields.1, hfields.2, rfl, rfl⟩
  · cases classifies_of_eq h with
    | switchOn _ hfields _ hcode => exact ⟨hfields.1, hfields.2, rfl, hcode, rfl⟩
    | switchOff _ hfields _ hcode => exact ⟨hfields.1, hfields.2, rfl, hcode, rfl⟩
  · cases classifies_of_eq h with
    | terminal _ _ hfields => cases op <;> exact ⟨hfields.2, hfields.1, rfl⟩
  · rfl

end Sys2Proof.Machine

/-! PROOFS. The class table of R106: what each of its patterns admits, in terms of the payload's fields, and its agreement
with `classify`. -/

namespace Sys2Proof.Machine

/-! ## Patterns -/

theorem length_eq_of_fitsChars {cs : List PatChar} {p : Bytes} (h : fitsChars false cs p = true) :
    p.length = cs.length := by
  induction cs generalizing p with
  | nil => simpa [fitsChars] using h
  | cons c cs ih =>
    cases p with
    | nil => simp [fitsChars] at h
    | cons b p => simp [ih (Bool.and_eq_true_iff.mp h).2]

/-- A pattern in two parts fits part by part. -/
theorem fitsChars_append (star : Bool) (cs ds : List PatChar) (p : Bytes) :
    fitsChars star (cs ++ ds) p =
      (fitsChars false cs (p.take cs.length) && fitsChars star ds (p.drop cs.length)) := by
  induction cs generalizing p with
  | nil => simp [fitsChars]
  | cons c cs ih => cases p <;> simp [fitsChars, ih, Bool.and_assoc]

theorem fitsChars_litPat (bs p : Bytes) : fitsChars false (litPat bs) p = true ↔ p = bs := by
  induction bs generalizing p with
  | nil => simp [litPat, fitsChars]
  | cons b bs ih =>
    cases p with
    | nil => simp [litPat, fitsChars]
    | cons x p => simpa [litPat, fitsChars, PatChar.fits] using fun _ => ih p

theorem fitsChars_replicate (n : Nat) (c : PatChar) (p : Bytes) :
    fitsChars false (List.replicate n c) p = true ↔ p.length = n ∧ ∀ x ∈ p, c.fits x = true := by
  induction n generalizing p with
  | zero => simp +contextual [fitsChars]
  | succ n ih => cases p <;> simp [List.replicate_succ, fitsChars, ih, and_left_comm]

/-- An opcode followed by a sequence number fits exactly the payloads with those fields (R105). -/
theorem fitsChars_fields {op : Bytes} (hop : op.length = 4) (star : Bool) (cs : List PatChar) (p : Bytes) :
    fitsChars star (litPat op ++ List.replicate 4 .hex ++ cs) p = true ↔
      (∃ s, HasFields op s p) ∧ fitsChars star cs (p.drop 8) = true := by
  have hlit : (litPat op).length = 4 := by simp [litPat, hop]
  have hseq : fitsChars false (List.replicate 4 .hex) (seqField p) = true ↔ ∃ s, hexval4 (seqField p) = some s := by
    rw [fitsChars_replicate, exists_hexval4_iff]
    rfl
  rw [List.append_assoc, fitsChars_append, fitsChars_append, hlit, List.length_replicate, List.drop_drop]
  simp only [Bool.and_eq_true, fitsChars_litPat]
  change opField p = op ∧ fitsChars false (List.replicate 4 .hex) (seqField p) = true ∧ _ ↔ _
  simp only [hseq, HasFields, exists_and_left, and_assoc]

theorem respOpText_length (op : RespOp) : (respOpText op).length = 4 := by cases op <;> rfl

theorem respPat_fits_iff (op : RespOp) (p : Bytes) :
    (respPat op).fits p = true ↔ (∃ s, HasFields (respOpText op) s p) ∧ ∀ x ∈ p.drop 8, isWord x = true := by
  have h := fitsChars_fields (respOpText_length op) true [] p
  simpa [Pattern.fits, respPat, fitsChars] using h

theorem genericPat_fits_iff (code : List PatChar) (p : Bytes) :
    Pattern.fits { chars := genericPat code, star := false } p = true ↔
      (∃ s, HasFields opGeneric s p) ∧ fitsChars false code (p.drop 8) = true :=
  fitsChars_fields rfl false code p

/-! ## What follows the sequence number in rows 1 to 5 -/

/-- A payload ends with a code exactly when it has the code and the length of one (R106 rows 1 and 2). -/
theorem drop_eq_code_iff {p code : Bytes} (hcode : code.length = 4) :
    p.drop 8 = code ↔ p.length = 12 ∧ codeField p = code := by
  constructor
  · rintro rfl
    rw [List.length_drop] at hcode
    exact ⟨by omega, List.take_of_length_le (by simp [hcode])⟩
  · rintro ⟨hlen, rfl⟩
    exact (List.take_of_length_le (by simp [hlen])).symm

/-- Four WORD characters follow exactly where the payload has the length of a code (R106 row 3). -/
theorem fitsChars_anyCode {p : Bytes} (hword : ∀ x ∈ p, isWord x = true) :
    fitsChars false (List.replicate 4 .word) (p.drop 8) = true ↔ p.length = 12 := by
  have hrest : ∀ x ∈ p.drop 8, PatChar.word.fits x = true := fun x hx => hword x (List.mem_of_mem_drop hx)
  rw [fitsChars_replicate, List.length_drop, and_iff_left hrest]
  omega

/-- A code and an address follow exactly where the payload has the code and the length of both (R106 rows 4 and 5). -/
theorem fitsChars_code_addr {p code : Bytes} (hword : ∀ x ∈ p, isWord x = true) (hcode : code.length = 4) :
    fitsChars false (litPat code ++ List.replicate 16 .word) (p.drop 8) = true ↔
      p.length = 28 ∧ codeField p = code := by
  have hlit : (litPat code).length = 4 := by simp [litPat, hcode]
  have haddr : ∀ x ∈ (p.drop 8).drop 4, PatChar.word.fits x = true := fun x hx =>
    hword x (List.mem_of_mem_drop (List.mem_of_mem_drop hx))
  rw [fitsChars_append, Bool.and_eq_true, hlit, fitsChars_litPat, fitsChars_replicate, and_iff_left haddr,
    and_comm, List.length_drop, List.length_drop]
  change _ ∧ codeField p = code ↔ _
  exact and_congr_left fun _ => by omega

/-! ## The first row that fits -/

theorem genericPat_fits_of_generic {p : Bytes} {s : Seq} (h : HasFields opGeneric s p) (code : List PatChar) :
    Pattern.fits { chars := genericPat code, star := false } p = fitsChars false code (p.drop 8) := by
  rw [Bool.eq_iff_iff, genericPat_fits_iff]
  exact and_iff_right ⟨s, h⟩

theorem genericPat_not_fits {p : Bytes} (h : ∀ s, ¬HasFields opGeneric s p) (code : List PatChar) :
    Pattern.fits { chars := genericPat code, star := false } p = false := by
  rw [Bool.eq_false_iff, ne_eq, genericPat_fits_iff]
  exact fun ⟨⟨s, hs⟩, _⟩ => h s hs

theorem respPat_not_fits {p : Bytes} {op : RespOp} (h : ∀ s, ¬HasFields (respOpText op) s p) :
    (respPat op).fits p = false := by
  rw [Bool.eq_false_iff, ne_eq, respPat_fits_iff]
  exact fun ⟨⟨s, hs⟩, _⟩ => h s hs

/-- With the opcode `0000` only rows 1 to 5 are left, and they ask what `classify` asks of the code and the length. -/
theorem tableRow_of_generic {p : Bytes} {s : Seq} (h : HasFields opGeneric s p) (hword : ∀ x ∈ p, isWord x = true) :
    tableRow p = (classifyGeneric p s).row := by
  have hresp : ∀ op, (respPat op).fits p = false := fun op =>
    respPat_not_fits fun _ hop => respOpText_ne_opGeneric op (hop.1.symm.trans h.1)
  simp only [tableRow, classTable, firstRow, genericPat_fits_of_generic h, hresp, fitsChars_litPat,
    drop_eq_code_iff (code := codeAck) rfl, drop_eq_code_iff (code := codeBusy) rfl,
    fitsChars_anyCode hword, fitsChars_code_addr hword (code := codeOn) rfl,
    fitsChars_code_addr hword (code := codeOff) rfl, classifyGeneric]
  by_cases h12 : p.length = 12
  · simp only [h12, true_and, if_true]
    split_ifs <;> rfl
  · simp only [h12, false_and, if_false, Bool.false_eq_true]
    split_ifs <;> rfl

/-- With a terminal opcode only its own row is left, and it asks nothing more of WORD characters. -/
theorem tableRow_of_terminal {p : Bytes} {op : RespOp} {s : Seq} (h : HasFields (respOpText op) s p)
    (hword : ∀ x ∈ p, isWord x = true) : tableRow p = .resp op := by
  have hgeneric : ∀ s, ¬HasFields opGeneric s p := fun _ hop =>
    respOpText_ne_opGeneric op (h.1.symm.trans hop.1)
  have hresp : ∀ op', (respPat op').fits p = decide (op' = op) := by
    intro op'
    rw [Bool.eq_iff_iff, respPat_fits_iff, decide_eq_true_iff]
    constructor
    · rintro ⟨⟨_, hop'⟩, _⟩
      exact respOpText_injective (hop'.1.symm.trans h.1)
    · rintro rfl
      exact ⟨⟨s, h⟩, fun x hx => hword x (List.mem_of_mem_drop hx)⟩
  simp only [tableRow, classTable, firstRow, genericPat_not_fits hgeneric, hresp]
  cases op <;> rfl

theorem tableRow_of_no_fields {p : Bytes} (hgeneric : ∀ s, ¬HasFields opGeneric s p)
    (hterminal : ∀ op s, ¬HasFields (respOpText op) s p) : tableRow p = .unrecognized := by
  simp [tableRow, classTable, firstRow, genericPat_not_fits hgeneric, respPat_not_fits (hterminal _)]

/-- Settles O6: by the opcode of the payload, which leaves rows 1 to 5, one terminal row, or none. -/
theorem classifyTakesTheFirstMatchingRow : Obligations.ClassifyTakesTheFirstMatchingRow := by
  intro p hword
  rcases fields_cases p with ⟨s, h⟩ | ⟨op, s, h⟩ | ⟨hgeneric, hterminal⟩
  · rw [classify_of_generic h, tableRow_of_generic h hword]
  · rw [classify_of_terminal h, tableRow_of_terminal h hword]
    rfl
  · rw [classify_of_no_fields hgeneric hterminal, tableRow_of_no_fields hgeneric hterminal]
    rfl

end Sys2Proof.Machine

/-! PROOFS. Decode and encode agree (spec 30_encoding.md): what the scanner extracts is a run of WORD characters (R153), a
payload of WORD characters decodes to an instruction with operands its encoding admits (R106), and every such instruction's
encoding decodes to it. -/

namespace Sys2Proof.Machine

/-! ## Extracted bodies are WORD characters (R153, R155) -/

theorem wordRun_pos_of_firstMatch {b : Bytes} {i j : Nat} (h : firstMatch b = some (i, j)) :
    0 < wordRun (b.drop i) ∧ j = i + 4 + wordRun (b.drop i) := by
  induction b generalizing i j with
  | nil => cases h
  | cons x t ih =>
    unfold firstMatch at h
    split at h
    · rename_i hhere
      cases h
      simp only [matchesHere, Bool.and_eq_true, decide_eq_true_iff] at hhere
      exact ⟨hhere.1.2, by simp⟩
    · obtain ⟨⟨i', j'⟩, hmatch, hij⟩ := Option.map_eq_some_iff.mp h
      cases hij
      obtain ⟨hpos, hend⟩ := ih hmatch
      exact ⟨hpos, by simp only [List.drop_succ_cons]; omega⟩

/-- The body is the WORD run after the preamble. -/
theorem body_of_extractOne {b body rest : Bytes} (h : extractOne b = some (body, rest)) :
    ∃ i, body = ((b.drop i).drop 4).takeWhile isWord ∧ 0 < body.length := by
  unfold extractOne at h
  split at h
  · cases h
  · rename_i i j hmatch
    cases h
    obtain ⟨hpos, rfl⟩ := wordRun_pos_of_firstMatch hmatch
    have hbody : slice b (i + 4) (i + 4 + wordRun (b.drop i)) = ((b.drop i).drop 4).takeWhile isWord := by
      rw [List.prefix_iff_eq_take.mp (List.takeWhile_prefix isWord (l := (b.drop i).drop 4)), List.drop_drop]
      simp [slice, wordRun]
    exact ⟨i, hbody, by rw [hbody]; exact hpos⟩

theorem isWord_of_mem_extractOne {b body rest : Bytes} (h : extractOne b = some (body, rest)) {x : Byte}
    (hx : x ∈ body) : isWord x = true := by
  obtain ⟨_, rfl, _⟩ := body_of_extractOne h
  exact List.mem_takeWhile_imp hx

theorem extractOne_body_ne_nil {b body rest : Bytes} (h : extractOne b = some (body, rest)) : body ≠ [] := by
  obtain ⟨_, _, hpos⟩ := body_of_extractOne h
  exact List.ne_nil_of_length_pos hpos

/-! ## Payloads of WORD characters decode well formed -/

theorem isWord_of_mem_slice {p : Bytes} (hword : ∀ x ∈ p, isWord x = true) {i j : Nat} :
    ∀ x ∈ slice p i j, isWord x = true :=
  fun x hx => hword x (List.mem_of_mem_drop (List.mem_of_mem_take hx))

theorem slice_length (p : Bytes) (i j : Nat) : (slice p i j).length = min (j - i) (p.length - i) := by
  simp [slice]

theorem respWf_iff (op : RespOp) (s : Seq) (p : Bytes) :
    respWf op s p = true ↔ (∀ x ∈ p, isWord x = true) ∧ HasFields (respOpText op) s p := by
  simp only [respWf, Bool.and_eq_true, List.all_eq_true, decide_eq_true_iff, beq_iff_eq, and_assoc]
  exact and_congr_right fun _ => and_iff_right_of_imp HasFields.length_le

theorem addrWf_addrField {p : Bytes} (hlen : p.length = 28) (hword : ∀ x ∈ p, isWord x = true) :
    addrWf (addrField p) = true := by
  simp only [addrWf, Bool.and_eq_true, decide_eq_true_iff, List.all_eq_true]
  exact ⟨by simp [addrField, slice_length, hlen], isWord_of_mem_slice hword⟩

theorem errorCodeWf_codeField {p : Bytes} (hlen : p.length = 12) (hword : ∀ x ∈ p, isWord x = true)
    (hack : codeField p ≠ codeAck) (hbusy : codeField p ≠ codeBusy) : errorCodeWf (codeField p) = true := by
  simp only [errorCodeWf, Bool.and_eq_true, decide_eq_true_iff, List.all_eq_true, bne_iff_ne]
  exact ⟨⟨⟨by simp [codeField, slice_length, hlen], isWord_of_mem_slice hword⟩, hack⟩, hbusy⟩

/-- A payload is UNRECOGNIZED for `classify` exactly when the table of R106 says so. -/
theorem unrecognizedWf_iff (p : Bytes) :
    unrecognizedWf p = true ↔ (∀ x ∈ p, isWord x = true) ∧ classify p = .unrecognized := by
  have hrow : ∀ c : RxClass, c.row = .unrecognized ↔ c = .unrecognized := by
    rintro (_ | _ | _ | ⟨_, _ | _, _⟩ | _ | _) <;> simp [RxClass.row]
  simp only [unrecognizedWf, Bool.and_eq_true, List.all_eq_true, beq_iff_eq, ← hrow]
  exact and_congr_right fun hword => by rw [classifyTakesTheFirstMatchingRow p hword]

theorem toInstr_terminal_wf (op : RespOp) (s : Seq) (p : Bytes) :
    ((RxClass.terminal op s).toInstr p).wf = respWf op s p := by
  cases op <;> rfl

theorem toInstr_wf_of_classify {p : Bytes} {c : RxClass} (hclass : classify p = c)
    (hword : ∀ x ∈ p, isWord x = true) : (c.toInstr p).wf = true := by
  cases classifies_of_eq hclass with
  | ack => rfl
  | busy => rfl
  | error _ _ hlen hack hbusy => exact errorCodeWf_codeField hlen hword hack hbusy
  | switchOn _ _ hlen => exact addrWf_addrField hlen hword
  | switchOff _ _ hlen => exact addrWf_addrField hlen hword
  | terminal op s hfields => exact toInstr_terminal_wf op s p ▸ (respWf_iff op s p).mpr ⟨hword, hfields⟩
  | otherShape => exact (unrecognizedWf_iff p).mpr ⟨hword, hclass⟩
  | noFields => exact (unrecognizedWf_iff p).mpr ⟨hword, hclass⟩

/-- Settles O9: an extracted body is a nonempty WORD run; it is a CRC_ERROR, or a payload with its checksum. -/
theorem extractedBodiesDecodeWellFormed : Obligations.ExtractedBodiesDecodeWellFormed := by
  intro b body rest h
  have hword : ∀ x ∈ body, isWord x = true := fun _ => isWord_of_mem_extractOne h
  cases hverify : verify body with
  | none => simpa [decodeBody, hverify, Instr.wf, crcErrorWf, extractOne_body_ne_nil h] using hword
  | some p =>
    obtain rfl := verify_eq_some_iff.mp hverify
    rw [decodeBody_bodyOf]
    exact toInstr_wf_of_classify rfl fun x hx => hword x (List.mem_append_left _ hx)

/-! ## Every well-formed instruction's encoding decodes to it -/

theorem genericPayload_hasFields (s : Seq) (code : Bytes) : HasFields opGeneric s (genericPayload s code) :=
  ⟨rfl, hexval4_hex4 s⟩

theorem genericPayload_length (s : Seq) (code : Bytes) : (genericPayload s code).length = code.length + 8 := by
  simp [genericPayload, opGeneric, ascii, hex4_length]; omega

theorem codeField_genericPayload (s : Seq) (code : Bytes) : codeField (genericPayload s code) = code.take 4 := rfl

/-- The fields of a switch acknowledgement (R106 rows 4 and 5). -/
theorem switchPayload_fields (s : Seq) {code addr : Bytes} (hcode : code.length = 4) (haddr : addrWf addr = true) :
    (genericPayload s (code ++ addr)).length = 28 ∧ codeField (genericPayload s (code ++ addr)) = code ∧
      addrField (genericPayload s (code ++ addr)) = addr := by
  have hlen : addr.length = 16 := of_decide_eq_true (Bool.and_eq_true_iff.mp haddr).1
  refine ⟨by simp [genericPayload_length, hcode, hlen], ?_, ?_⟩
  · rw [codeField_genericPayload, ← hcode, List.take_left]
  · change ((code ++ addr).drop 4).take 16 = addr
    rw [← hcode, List.drop_left, List.take_of_length_le hlen.le]

/-- The body of a payload `0000SSSS` and a code decodes by the code (R303). -/
theorem decodeBody_genericPayload (s : Seq) (code : Bytes) :
    decodeBody (bodyOf (genericPayload s code)) =
      (classifyGeneric (genericPayload s code) s).toInstr (genericPayload s code) := by
  rw [decodeBody_bodyOf, classify_of_generic (genericPayload_hasFields s code)]

theorem decodeBody_ack (s : Seq) : decodeBody (bodyOf (genericPayload s codeAck)) = .ack s := by
  rw [decodeBody_genericPayload]
  rfl

theorem decodeBody_busy (s : Seq) : decodeBody (bodyOf (genericPayload s codeBusy)) = .busy s := by
  rw [decodeBody_genericPayload]
  rfl

theorem decodeBody_error (s : Seq) {code : Bytes} (h : errorCodeWf code = true) :
    decodeBody (bodyOf (genericPayload s code)) = .error s code := by
  simp only [errorCodeWf, Bool.and_eq_true, decide_eq_true_iff, bne_iff_ne] at h
  obtain ⟨⟨⟨hlen, -⟩, hack⟩, hbusy⟩ := h
  have htake : code.take 4 = code := List.take_of_length_le hlen.le
  rw [decodeBody_genericPayload, classifyGeneric, codeField_genericPayload, htake]
  simp [genericPayload_length, hlen, hack, hbusy, RxClass.toInstr]

theorem decodeBody_switchOn (s : Seq) {addr : Bytes} (h : addrWf addr = true) :
    decodeBody (bodyOf (genericPayload s (codeOn ++ addr))) = .switchOn s addr := by
  obtain ⟨hlen, hcode, haddr⟩ := switchPayload_fields s (code := codeOn) rfl h
  simp [decodeBody_genericPayload, classifyGeneric, hlen, hcode, haddr, RxClass.toInstr]

theorem decodeBody_switchOff (s : Seq) {addr : Bytes} (h : addrWf addr = true) :
    decodeBody (bodyOf (genericPayload s (codeOff ++ addr))) = .switchOff s addr := by
  obtain ⟨hlen, hcode, haddr⟩ := switchPayload_fields s (code := codeOff) rfl h
  have hne : codeOff ≠ codeOn := by decide
  simp [decodeBody_genericPayload, classifyGeneric, hlen, hcode, haddr, hne, RxClass.toInstr]

theorem decodeBody_terminal {op : RespOp} {s : Seq} {p : Bytes} (h : respWf op s p = true) :
    decodeBody (bodyOf p) = (RxClass.terminal op s).toInstr p := by
  rw [decodeBody_bodyOf, classify_of_terminal ((respWf_iff op s p).mp h).2]

theorem decodeBody_unrecognized {p : Bytes} (h : unrecognizedWf p = true) :
    decodeBody (bodyOf p) = .unrecognized p := by
  rw [decodeBody_bodyOf, ((unrecognizedWf_iff p).mp h).2, RxClass.toInstr]

theorem decodeBody_crcError {body : Bytes} (h : crcErrorWf body = true) : decodeBody body = .crcError body := by
  simp only [crcErrorWf, Bool.and_eq_true, beq_iff_eq] at h
  simp [decodeBody, h.2]

/-- Settles O1, instruction by instruction: a host command's word fits its row and carries its fields, a received class's
body verifies and classifies by its fields, and INIT, FRAME and the agents' steps are read back as written. -/
theorem encodedInstructionsDecodeToThemselves : Obligations.EncodedInstructionsDecodeToThemselves := by
  intro i hwf
  cases i with
  | reset => rfl
  | connect => rfl
  | submit kind cb payload => exact decodeHost_commandWord_submit kind cb payload
  | pump tmo => exact decodeHost_commandWord_pump tmo []
  | status => rfl
  | rxcount => rfl
  | crc16 arg => rfl
  | ack s => exact congrArg Decoded.ok (decodeBody_ack s)
  | busy s => exact congrArg Decoded.ok (decodeBody_busy s)
  | error s code => exact congrArg Decoded.ok (decodeBody_error s hwf)
  | switchOn s addr => exact congrArg Decoded.ok (decodeBody_switchOn s hwf)
  | switchOff s addr => exact congrArg Decoded.ok (decodeBody_switchOff s hwf)
  | respInit s p => exact congrArg Decoded.ok (decodeBody_terminal (op := .init) hwf)
  | respPower s p => exact congrArg Decoded.ok (decodeBody_terminal (op := .power) hwf)
  | respCircle s p => exact congrArg Decoded.ok (decodeBody_terminal (op := .circle) hwf)
  | respStatus s p => exact congrArg Decoded.ok (decodeBody_terminal (op := .status) hwf)
  | respCalib s p => exact congrArg Decoded.ok (decodeBody_terminal (op := .calib) hwf)
  | respHistory s p => exact congrArg Decoded.ok (decodeBody_terminal (op := .history) hwf)
  | unrecognized p => exact congrArg Decoded.ok (decodeBody_unrecognized hwf)
  | crcError body => exact congrArg Decoded.ok (decodeBody_crcError hwf)
  | init => rfl
  | frame p => exact decodeWire_encodeFrame p
  | rxDeliver b => rfl
  | linkFail => rfl
  | pstep => rfl
  | timeout => rfl

/-- Settles O5: the legal words fit their rows, `00000105` has a bit of no row's, and the bodies are payloads with their
checksums FEED and CB81 (95_test_vectors.md, 2.1). -/
theorem knownCodesDecode : Obligations.KnownCodesDecode := by
  have hack : bodyOf (genericPayload 1 codeAck) =
      ascii ['0', '0', '0', '0', '0', '0', '0', '1', '0', '0', 'C', '1', 'F', 'E', 'E', 'D'] := by decide +kernel
  have hpower : bodyOf (ascii ['0', '0', '1', '3', '0', '0', '0', '5', '0', '0']) =
      ascii ['0', '0', '1', '3', '0', '0', '0', '5', '0', '0', 'C', 'B', '8', '1'] := by decide +kernel
  have hwf : respWf .power 5 (ascii ['0', '0', '1', '3', '0', '0', '0', '5', '0', '0']) = true := by decide
  refine ⟨rfl, rfl, decodeHost_commandWord_submit 9 true [0x30], decodeHost_commandWord_pump true [], rfl, ?_, ?_⟩
  · rw [← hack]
    exact congrArg Decoded.ok (decodeBody_ack 1)
  · rw [← hpower]
    exact congrArg Decoded.ok (decodeBody_terminal hwf)

end Sys2Proof.Machine

/-! PROOFS. The frame codec (spec R150 to R161): a match of R153 cuts the buffer into the bytes before it, the preamble, a run
of WORD bytes, the terminator and the bytes after it; the scanner answers the match with the smallest start, whose terminator
also arrived first; an extraction answers the run and the bytes after it. -/

namespace Sys2Proof.Machine

/-! ## Slices (R11) -/

theorem slice_append_drop (b : Bytes) {i j : Nat} (h : i ≤ j) : slice b i j ++ b.drop j = b.drop i := by
  have hdrop : b.drop j = (b.drop i).drop (j - i) := by rw [List.drop_drop, Nat.add_sub_cancel' h]
  rw [hdrop, slice, List.take_append_drop]

theorem slice_getElem? (b : Bytes) {i j k : Nat} (hik : i ≤ k) (hkj : k < j) : (slice b i j)[k - i]? = b[k]? := by
  rw [slice, List.getElem?_take_of_lt (by omega), List.getElem?_drop, Nat.add_sub_cancel' hik]

theorem slice_cons_succ (x : Byte) (t : Bytes) (i j : Nat) : slice (x :: t) (i + 1) (j + 1) = slice t i j := by
  simp [slice]

/-! ## Frame matches (R153) -/

/-- A buffer that holds a frame: bytes before it, the preamble, a body, the terminator, and bytes after it. -/
def framed (before body rest : Bytes) : Bytes := before ++ (preamble ++ (body ++ (term ++ rest)))

theorem encodeFrame_append (p rest : Bytes) : encodeFrame p ++ rest = framed [] (bodyOf p) rest := by
  simp [encodeFrame, framed]

theorem drop_framed (before body rest : Bytes) :
    (framed before body rest).drop (before.length + 4 + body.length + 2) = rest := by
  have hlen : before.length + 4 + body.length + 2 = (before ++ preamble ++ body ++ term).length := by
    simp [preamble, term]; omega
  have happend : framed before body rest = before ++ preamble ++ body ++ term ++ rest := by simp [framed]
  rw [happend, hlen, List.drop_left]

theorem slice_framed (before body rest : Bytes) :
    slice (framed before body rest) (before.length + 4) (before.length + 4 + body.length) = body := by
  rw [framed, ← List.append_assoc]
  exact slice_append_of_eq (by simp [preamble]) (by simp [preamble])

/-- The start of a match is the number of bytes before it, and its end follows the preamble and the body. -/
theorem isFrameMatch_iff {b : Bytes} {i j : Nat} :
    IsFrameMatch b i j ↔ ∃ before body rest, b = framed before body rest ∧ body ≠ [] ∧ (∀ x ∈ body, isWord x = true) ∧
      i = before.length ∧ j = before.length + 4 + body.length := by
  constructor
  · rintro ⟨hij, hpre, hword, hj, hterm⟩
    have hbody : (slice b (i + 4) j).length = j - (i + 4) := by rw [slice_length]; omega
    have hbefore : (b.take i).length = i := by rw [List.length_take]; omega
    refine ⟨b.take i, slice b (i + 4) j, b.drop (j + 2), ?_, ?_, hword, hbefore.symm, by rw [hbefore, hbody]; omega⟩
    · rw [framed, ← hpre, ← hterm, slice_append_drop b (Nat.le_add_right j 2), slice_append_drop b hij.le,
        slice_append_drop b (Nat.le_add_right i 4), List.take_append_drop]
    · exact List.ne_nil_of_length_pos (by omega)
  · rintro ⟨before, body, rest, rfl, hbody, hword, rfl, rfl⟩
    have hpos := List.length_pos_iff.mpr hbody
    refine ⟨by omega, ?_, ?_, ?_, ?_⟩
    · exact slice_append_of_eq rfl (by simp [preamble])
    · rwa [slice_framed]
    · simp [framed, preamble, term]; omega
    · rw [framed, ← List.append_assoc, ← List.append_assoc]
      exact slice_append_of_eq (by simp [preamble]; omega) (by simp [preamble, term]; omega)

theorem isFrameMatch_cons_succ {x : Byte} {t : Bytes} {i j : Nat} :
    IsFrameMatch (x :: t) (i + 1) (j + 1) ↔ IsFrameMatch t i j := by
  simp only [IsFrameMatch, Nat.add_right_comm _ 1, slice_cons_succ, List.length_cons, Nat.add_lt_add_iff_right,
    Nat.add_le_add_iff_right]

theorem not_isFrameMatch_nil (i j : Nat) : ¬IsFrameMatch [] i j := by
  rintro ⟨-, -, -, hj, -⟩
  simp at hj

section
variable {b : Bytes} {i j : Nat}

/-- The first byte of the terminator. -/
theorem isFrameMatch_getElem?_end (h : IsFrameMatch b i j) : b[j]? = some 0x0D := by
  obtain ⟨-, -, -, -, hterm⟩ := h
  rw [← slice_getElem? b le_rfl (Nat.lt_add_of_pos_right two_pos), hterm, Nat.sub_self]
  rfl

theorem isFrameMatch_isWord (h : IsFrameMatch b i j) {k : Nat} {x : Byte} (hik : i + 4 ≤ k) (hkj : k < j)
    (hx : b[k]? = some x) : isWord x = true := by
  obtain ⟨-, -, hword, -, -⟩ := h
  exact hword x (List.mem_of_getElem? ((slice_getElem? b hik hkj).trans hx))

/-- A match that starts no earlier ends no earlier: its terminator is no WORD byte, so it is not inside the other's run. -/
theorem isFrameMatch_end_le (h : IsFrameMatch b i j) {i' j' : Nat} (h' : IsFrameMatch b i' j') (hi : i ≤ i') :
    j ≤ j' := by
  by_contra hlt
  have hstart : i' + 4 < j' := h'.1
  have hcr : isWord 0x0D = true := isFrameMatch_isWord h (by omega) (by omega) (isFrameMatch_getElem?_end h')
  exact absurd hcr (by decide)

theorem isFrameMatch_end_unique (h : IsFrameMatch b i j) {j' : Nat} (h' : IsFrameMatch b i j') : j = j' :=
  le_antisymm (isFrameMatch_end_le h h' le_rfl) (isFrameMatch_end_le h' h le_rfl)

end

/-! ## The scanner (R154) -/

/-- The WORD run ends where the terminator begins. -/
theorem wordRun_framed {body : Bytes} (hword : ∀ x ∈ body, isWord x = true) (rest : Bytes) :
    wordRun (framed [] body rest) = body.length := by
  have hterm : (term ++ rest).takeWhile isWord = [] := List.takeWhile_cons_of_neg (by decide)
  change (List.takeWhile isWord (body ++ (term ++ rest))).length = body.length
  rw [List.takeWhile_append_of_pos hword, hterm, List.append_nil]

theorem slice_wordRun (b : Bytes) : slice b 4 (4 + wordRun b) = (b.drop 4).takeWhile isWord := by
  rw [slice, Nat.add_sub_cancel_left, wordRun, ← List.prefix_iff_eq_take.mp (List.takeWhile_prefix isWord)]

theorem matchesHere_iff (b : Bytes) : matchesHere b = true ↔
    slice b 0 4 = preamble ∧ 0 < wordRun b ∧ slice b (4 + wordRun b) (4 + wordRun b + 2) = term := by
  simp [matchesHere, slice, and_assoc]

/-- The scanner's test at the start of the buffer finds the match there, with its one end. -/
theorem isFrameMatch_zero_iff {b : Bytes} {j : Nat} :
    IsFrameMatch b 0 j ↔ matchesHere b = true ∧ j = 4 + wordRun b := by
  rw [matchesHere_iff]
  constructor
  · intro h
    have hj : j = 4 + wordRun b := by
      obtain ⟨before, body, rest, rfl, -, hword, hstart, rfl⟩ := isFrameMatch_iff.mp h
      obtain rfl := List.length_eq_zero_iff.mp hstart.symm
      rw [wordRun_framed hword, List.length_nil, Nat.zero_add]
    obtain ⟨hij, hpre, -, -, hterm⟩ := h
    subst hj
    exact ⟨⟨hpre, by omega, hterm⟩, rfl⟩
  · rintro ⟨⟨hpre, hpos, hterm⟩, rfl⟩
    have hlen : (slice b (4 + wordRun b) (4 + wordRun b + 2)).length = 2 := by rw [hterm]; rfl
    rw [slice_length] at hlen
    refine ⟨by omega, hpre, ?_, by omega, hterm⟩
    rw [Nat.zero_add, slice_wordRun]
    exact fun x hx => List.mem_takeWhile_imp hx

theorem firstMatch_cons_of_match {x : Byte} {t : Bytes} (h : matchesHere (x :: t) = true) :
    firstMatch (x :: t) = some (0, 4 + wordRun (x :: t)) := if_pos h

theorem firstMatch_cons_of_not_match {x : Byte} {t : Bytes} (h : ¬matchesHere (x :: t) = true) :
    firstMatch (x :: t) = (firstMatch t).map fun ij => (ij.1 + 1, ij.2 + 1) := if_neg h

/-- Where the buffer does not start with a match, its matches are those of its tail, one byte on. -/
theorem isFrameMatch_tail {x : Byte} {t : Bytes} {i j : Nat} (h : IsFrameMatch (x :: t) i j)
    (hhere : ¬matchesHere (x :: t) = true) : ∃ i' j', i = i' + 1 ∧ j = j' + 1 ∧ IsFrameMatch t i' j' := by
  cases i with
  | zero => exact absurd (isFrameMatch_zero_iff.mp h).1 hhere
  | succ i =>
    obtain ⟨j, rfl⟩ : ∃ j', j = j' + 1 := Nat.exists_eq_succ_of_ne_zero (Nat.ne_zero_of_lt h.1)
    exact ⟨i, j, rfl, rfl, isFrameMatch_cons_succ.mp h⟩

theorem isFrameMatch_of_firstMatch {b : Bytes} {i j : Nat} (h : firstMatch b = some (i, j)) : IsFrameMatch b i j := by
  induction b generalizing i j with
  | nil => cases h
  | cons x t ih =>
    by_cases hhere : matchesHere (x :: t) = true
    · rw [firstMatch_cons_of_match hhere] at h
      cases h
      exact isFrameMatch_zero_iff.mpr ⟨hhere, rfl⟩
    · rw [firstMatch_cons_of_not_match hhere] at h
      obtain ⟨⟨i', j'⟩, htail, hij⟩ := Option.map_eq_some_iff.mp h
      cases hij
      exact isFrameMatch_cons_succ.mpr (ih htail)

/-- Where there is a match the scanner answers one that starts no later. -/
theorem exists_firstMatch_of_isFrameMatch {b : Bytes} {i j : Nat} (h : IsFrameMatch b i j) :
    ∃ i₀ j₀, firstMatch b = some (i₀, j₀) ∧ i₀ ≤ i := by
  induction b generalizing i j with
  | nil => exact absurd h (not_isFrameMatch_nil i j)
  | cons x t ih =>
    by_cases hhere : matchesHere (x :: t) = true
    · exact ⟨_, _, firstMatch_cons_of_match hhere, Nat.zero_le i⟩
    · obtain ⟨i', j', rfl, rfl, htail⟩ := isFrameMatch_tail h hhere
      obtain ⟨i₀, j₀, hfirst, hle⟩ := ih htail
      exact ⟨i₀ + 1, j₀ + 1, by rw [firstMatch_cons_of_not_match hhere, hfirst]; rfl, Nat.succ_le_succ hle⟩

/-- Settles O14: the scanner's answer is a match that starts no later than any other, so it also ends no later. -/
theorem firstMatchIsTheLeftmostMatch : Obligations.FirstMatchIsTheLeftmostMatch := by
  intro b
  refine ⟨fun i j hfirst => ⟨isFrameMatch_of_firstMatch hfirst, fun i' j' h' => ?_⟩, fun hnone i j h => ?_,
    fun i j j' h h' => isFrameMatch_end_unique h h'⟩
  · obtain ⟨i₀, j₀, hfirst', hle⟩ := exists_firstMatch_of_isFrameMatch h'
    obtain ⟨rfl, rfl⟩ := Prod.mk.inj (Option.some.inj (hfirst.symm.trans hfirst'))
    exact ⟨hle, isFrameMatch_end_le (isFrameMatch_of_firstMatch hfirst) h' hle⟩
  · obtain ⟨i₀, j₀, hsome, -⟩ := exists_firstMatch_of_isFrameMatch h
    exact absurd (hnone.symm.trans hsome) (by simp)

/-! ## Extraction (R155, R156, R158, R161) -/

theorem extractOne_of_firstMatch {b : Bytes} {i j : Nat} (h : firstMatch b = some (i, j)) :
    extractOne b = some (slice b (i + 4) j, b.drop (j + 2)) := by
  simp [extractOne, h]

theorem exists_firstMatch_of_extractOne {b body rest : Bytes} (h : extractOne b = some (body, rest)) :
    ∃ i j, firstMatch b = some (i, j) := by
  unfold extractOne at h
  split at h
  · cases h
  · exact ⟨_, _, ‹_›⟩

theorem framed_of_extractOne {b body rest : Bytes} (h : extractOne b = some (body, rest)) :
    ∃ before, b = framed before body rest := by
  obtain ⟨i, j, hfirst⟩ := exists_firstMatch_of_extractOne h
  have hmatch := isFrameMatch_of_firstMatch hfirst
  obtain ⟨before, body', rest', rfl, -, -, rfl, rfl⟩ := isFrameMatch_iff.mp hmatch
  rw [extractOne_of_firstMatch hfirst, slice_framed, drop_framed] at h
  cases h
  exact ⟨before, rfl⟩

/-- A frame at the start of the buffer is the one extracted. -/
theorem extractOne_framed_nil {body : Bytes} (hbody : body ≠ []) (hword : ∀ x ∈ body, isWord x = true) (rest : Bytes) :
    extractOne (framed [] body rest) = some (body, rest) := by
  have hmatch : IsFrameMatch (framed [] body rest) 0 (0 + 4 + body.length) :=
    isFrameMatch_iff.mpr ⟨[], body, rest, rfl, hbody, hword, rfl, rfl⟩
  obtain ⟨i, j, hfirst, hle⟩ := exists_firstMatch_of_isFrameMatch hmatch
  obtain rfl := Nat.le_zero.mp hle
  obtain rfl := isFrameMatch_end_unique hmatch (isFrameMatch_of_firstMatch hfirst)
  rw [extractOne_of_firstMatch hfirst]
  exact congrArg some (Prod.ext (slice_framed [] body rest) (drop_framed [] body rest))

theorem isWord_hexDigit : ∀ n : BitVec 4, isWord (hexDigit n) = true := by decide

theorem isWord_of_mem_hex4 {v : BitVec 16} {x : Byte} (hx : x ∈ hex4 v) : isWord x = true := by
  simp only [hex4, List.mem_cons, List.not_mem_nil, or_false] at hx
  rcases hx with rfl | rfl | rfl | rfl <;> exact isWord_hexDigit _

theorem bodyOf_ne_nil (p : Bytes) : bodyOf p ≠ [] := List.ne_nil_of_length_pos (by rw [bodyOf_length]; omega)

theorem isWord_of_mem_bodyOf {p : Bytes} (hword : ∀ x ∈ p, isWord x = true) : ∀ x ∈ bodyOf p, isWord x = true :=
  fun x hx => (List.mem_append.mp hx).elim (hword x) isWord_of_mem_hex4

/-- Settles O15: what an extraction answers is a nonempty run of WORD bytes and the bytes after its terminator. -/
theorem extractionRemovesThroughTheTerminator : Obligations.ExtractionRemovesThroughTheTerminator := by
  intro b body rest h
  obtain ⟨before, hb⟩ := framed_of_extractOne h
  exact ⟨extractOne_body_ne_nil h, fun _ => isWord_of_mem_extractOne h, before, by simp [hb, framed]⟩

/-- Settles O13: a payload's frame starts the buffer, and its body is a payload and a checksum of WORD bytes. -/
theorem bytesAfterAFrameStay : Obligations.BytesAfterAFrameStay := by
  intro p rest hword
  rw [encodeFrame_append]
  exact extractOne_framed_nil (bodyOf_ne_nil p) (isWord_of_mem_bodyOf hword) rest

/-- Settles O12: with nothing after the frame nothing is left, and the body verifies; an extracted body is all WORD, so no
other payload comes back. -/
theorem framesOfWordPayloadsRoundTrip : Obligations.FramesOfWordPayloadsRoundTrip := by
  refine fun p => ⟨fun hword => ⟨?_, verify_eq_some_iff.mpr rfl⟩, ?_⟩
  · have h := bytesAfterAFrameStay p [] hword
    rwa [List.append_nil] at h
  · rintro ⟨x, hx, hnot⟩ h
    have hword : isWord x = true := isWord_of_mem_extractOne h (List.mem_append_left _ hx)
    exact absurd hword (by simp [hnot])

/-! ## The outbound frame (R151, R255) -/

theorem exec_frame (p : Bytes) (s : State) : exec (.frame p) s = execFrame p s := rfl

theorem canSend_of_clear {s : State} (hfault : s.fault = none) (hfatal : s.fatal = false) : canSend s = true := by
  simp [canSend, hfault, hfatal]

theorem execFrame_of_canSend {s : State} (h : canSend s = true) (p : Bytes) : execFrame p s = .next (transmit p s) :=
  if_pos h

/-- Settles O37: where PWLINK can send, FRAME is one Tx event with the encoded frame. -/
theorem frameIsSentWhole : Obligations.FrameIsSentWhole := by
  intro p s hfault hfatal
  rw [exec_frame, execFrame_of_canSend (canSend_of_clear hfault hfatal)]
  simp [transmit, emit, encodeFrame_eq, preamble, term]

end Sys2Proof.Machine

/-! PROOFS. The checksum (spec R200 to R207, R301): a byte spells a nibble in either case exactly when it is a hex digit of
that value, so four of them read as the value they render; a shift of the CRC register is linear and loses no bit, so a byte
step, and with it the whole CRC, is linear and tells two registers and two bytes apart. -/

namespace Sys2Proof.Machine

/-! ## Reading hex in either case (R301) -/

/-- A byte with `a` to `f` written as capitals. -/
def capitalHex (b : Byte) : Byte := if 0x61 ≤ b.toNat ∧ b.toNat ≤ 0x66 then b - 0x20 else b

theorem capitalHex_toNat (b : Byte) :
    (capitalHex b).toNat = if 0x61 ≤ b.toNat ∧ b.toNat ≤ 0x66 then b.toNat - 0x20 else b.toNat := by
  unfold capitalHex
  split
  · bv_omega
  · rfl

theorem isHexU_iff (b : Byte) :
    isHexU b = true ↔ (0x30 ≤ b.toNat ∧ b.toNat ≤ 0x39) ∨ (0x41 ≤ b.toNat ∧ b.toNat ≤ 0x46) := by
  simp [isHexU, byteBetween]

theorem isHexAny_iff (b : Byte) : isHexAny b = true ↔ isHexU b = true ∨ (0x61 ≤ b.toNat ∧ b.toNat ≤ 0x66) := by
  simp [isHexAny, byteBetween]

theorem isHexU_capitalHex (b : Byte) : isHexU (capitalHex b) = true ↔ isHexAny b = true := by
  rw [isHexAny_iff, isHexU_iff, isHexU_iff, capitalHex_toNat]
  split <;> omega

theorem hexDigitValue_capitalHex (b : Byte) : hexDigitValue (capitalHex b) = hexDigitValue b := by
  simp only [hexDigitValue, capitalHex_toNat]
  split <;> split_ifs <;> omega

theorem isHexU_hexDigit : ∀ n : BitVec 4, isHexU (hexDigit n) = true := by decide

theorem hexDigit_toNat (n : BitVec 4) :
    (hexDigit n).toNat = if n.toNat ≤ 9 then 0x30 + n.toNat else 0x41 + (n.toNat - 10) := by
  unfold hexDigit
  split <;> rw [BitVec.toNat_ofNat] <;> omega

/-- The digit of a nibble is the one HEXU character with that value. -/
theorem eq_hexDigit_iff (b : Byte) (n : BitVec 4) :
    b = hexDigit n ↔ isHexU b = true ∧ hexDigitValue b = n.toNat := by
  constructor
  · rintro rfl
    exact ⟨isHexU_hexDigit n, hexDigitValue_hexDigit n⟩
  · rintro ⟨hdigit, hvalue⟩
    rw [isHexU_iff] at hdigit
    apply BitVec.eq_of_toNat_eq
    rw [hexDigit_toNat, ← hvalue, hexDigitValue]
    split_ifs <;> omega

/-- A byte spells a nibble in either case exactly when it is a hex digit of that value. -/
theorem capitalHex_eq_hexDigit_iff (b : Byte) (n : BitVec 4) :
    capitalHex b = hexDigit n ↔ isHexAny b = true ∧ hexDigitValue b = n.toNat := by
  rw [eq_hexDigit_iff, isHexU_capitalHex, hexDigitValue_capitalHex]

theorem hexDigitValue_lt {b : Byte} (h : isHexAny b = true) : hexDigitValue b < 16 := by
  rw [isHexAny_iff, isHexU_iff] at h
  unfold hexDigitValue
  split_ifs <;> omega

/-- A 16-bit value is put together from four numbers below 16 exactly when they are its nibbles. -/
theorem ofNat_nibbles_eq_iff {a b c d : Nat} (ha : a < 16) (hb : b < 16) (hc : c < 16) (hd : d < 16) (v : BitVec 16) :
    BitVec.ofNat 16 (16 ^ 3 * a + 16 ^ 2 * b + 16 * c + d) = v ↔
      a = (v.extractLsb' 12 4).toNat ∧ b = (v.extractLsb' 8 4).toNat ∧ c = (v.extractLsb' 4 4).toNat ∧
        d = (v.extractLsb' 0 4).toNat := by
  have hv := v.isLt
  simp only [← BitVec.toNat_inj, BitVec.toNat_ofNat, BitVec.extractLsb'_toNat, Nat.shiftRight_eq_div_pow]
  omega

/-- Four bytes read as a value exactly when each spells its nibble. -/
theorem hexval4_four_eq_some_iff (a b c d : Byte) (v : BitVec 16) :
    hexval4 [a, b, c, d] = some v ↔ [a, b, c, d].map capitalHex = hex4 v := by
  simp only [List.map_cons, List.map_nil, hex4, List.cons.injEq, and_true, capitalHex_eq_hexDigit_iff, hexval4,
    Bool.and_eq_true]
  split
  · rename_i hdigits
    obtain ⟨⟨⟨ha, hb⟩, hc⟩, hd⟩ := hdigits
    rw [Option.some.injEq, ofNat_nibbles_eq_iff (hexDigitValue_lt ha) (hexDigitValue_lt hb) (hexDigitValue_lt hc)
      (hexDigitValue_lt hd)]
    simp [ha, hb, hc, hd]
  · rename_i hdigits
    exact iff_of_false (by simp) fun ⟨⟨ha, _⟩, ⟨hb, _⟩, ⟨hc, _⟩, hd, _⟩ => hdigits ⟨⟨⟨ha, hb⟩, hc⟩, hd⟩

theorem hexval4_eq_some_iff (t : Bytes) (v : BitVec 16) : hexval4 t = some v ↔ t.map capitalHex = hex4 v := by
  by_cases hlen : t.length = 4
  · obtain ⟨a, b, c, d, rfl⟩ := List.length_eq_four.mp hlen
    exact hexval4_four_eq_some_iff a b c d v
  · refine iff_of_false (fun h => hlen ((exists_hexval4_iff t).mp ⟨v, h⟩).1) fun h => hlen ?_
    rw [← hex4_length v, ← h, List.length_map]

theorem isHexU_of_mem_hex4 {v : BitVec 16} {x : Byte} (hx : x ∈ hex4 v) : isHexU x = true := by
  simp only [hex4, List.mem_cons, List.not_mem_nil, or_false] at hx
  rcases hx with rfl | rfl | rfl | rfl <;> exact isHexU_hexDigit _

theorem hex4_injective : Function.Injective hex4 := fun v w h =>
  Option.some.inj (by rw [← hexval4_hex4 v, h, hexval4_hex4 w])

/-- Settles O10: a string reads as a value exactly when each of its four bytes spells the value's nibble. -/
theorem hexRenderingReadsBack : Obligations.HexRenderingReadsBack :=
  fun v => ⟨hex4_length v, fun _ => isHexU_of_mem_hex4, fun t => hexval4_eq_some_iff t v⟩

/-! ## One shift of the CRC register (R202) -/

theorem crcShift_of_set {c : Crc} (h : c.getLsbD 15 = true) : crcShift c = (c <<< 1) ^^^ 0x1021 := if_pos h

theorem crcShift_of_clear {c : Crc} (h : c.getLsbD 15 = false) : crcShift c = c <<< 1 := if_neg (by rw [h]; decide)

theorem crcShift_xor (c d : Crc) : crcShift (c ^^^ d) = crcShift c ^^^ crcShift d := by
  have hbit : (c ^^^ d).getLsbD 15 = (c.getLsbD 15 ^^ d.getLsbD 15) := BitVec.getLsbD_xor
  have hshift : (c ^^^ d) <<< 1 = c <<< 1 ^^^ d <<< 1 := BitVec.shiftLeft_xor_distrib ..
  cases hc : c.getLsbD 15 <;> cases hd : d.getLsbD 15 <;> rw [hc, hd] at hbit
  · rw [crcShift_of_clear hbit, crcShift_of_clear hc, crcShift_of_clear hd, hshift]
  · rw [crcShift_of_set hbit, crcShift_of_clear hc, crcShift_of_set hd, hshift, BitVec.xor_assoc]
  · rw [crcShift_of_set hbit, crcShift_of_set hc, crcShift_of_clear hd, hshift]
    ac_rfl
  · rw [crcShift_of_clear hbit, crcShift_of_set hc, crcShift_of_set hd, hshift, BitVec.xor_assoc,
      BitVec.xor_comm 0x1021, BitVec.xor_assoc, BitVec.xor_self, BitVec.xor_zero]

/-- The polynomial has its lowest term, so the bit that a shift moves out stays visible in bit 0. -/
theorem crcShift_getLsbD_zero (c : Crc) : (crcShift c).getLsbD 0 = c.getLsbD 15 := by
  cases hc : c.getLsbD 15
  · simp [crcShift_of_clear hc]
  · simp [crcShift_of_set hc]

theorem getLsbD_top_eq_false_iff (c : Crc) : c.getLsbD 15 = false ↔ c.toNat < 2 ^ 15 := by
  rw [← BitVec.msb_eq_getLsbD_last c, BitVec.msb_eq_false_iff_two_mul_lt]
  omega

theorem eq_zero_of_crcShift_eq_zero {c : Crc} (h : crcShift c = 0) : c = 0 := by
  have hbit : c.getLsbD 15 = false := by rw [← crcShift_getLsbD_zero, h]; rfl
  rw [crcShift_of_clear hbit] at h
  rw [getLsbD_top_eq_false_iff] at hbit
  bv_omega

/-! ## Several shifts, one byte, and a string -/

theorem crcShifts_xor (n : Nat) (c d : Crc) : crcShifts n (c ^^^ d) = crcShifts n c ^^^ crcShifts n d := by
  induction n generalizing c d with
  | zero => rfl
  | succ n ih => simp only [crcShifts, crcShift_xor, ih]

theorem eq_zero_of_crcShifts_eq_zero {n : Nat} {c : Crc} (h : crcShifts n c = 0) : c = 0 := by
  induction n generalizing c with
  | zero => exact h
  | succ n ih => exact eq_zero_of_crcShift_eq_zero (ih h)

theorem crcShifts_injective (n : Nat) : Function.Injective (crcShifts n) := by
  intro c d h
  have hzero : crcShifts n (c ^^^ d) = 0 := by rw [crcShifts_xor, h]; exact BitVec.xor_self
  exact BitVec.xor_eq_zero_iff.mp (eq_zero_of_crcShifts_eq_zero hzero)

/-- As long as no set bit reaches bit 15, shifting the register is a plain shift. -/
theorem crcShifts_of_lt {n : Nat} {c : Crc} (h : c.toNat * 2 ^ n < 2 ^ 16) : crcShifts n c = c <<< n := by
  induction n generalizing c with
  | zero => simp [crcShifts]
  | succ n ih =>
    have hpow : c.toNat * 2 * 2 ^ n < 2 ^ 16 := by rwa [Nat.pow_succ', ← Nat.mul_assoc] at h
    have hdouble : c.toNat * 2 < 2 ^ 16 := Nat.lt_of_le_of_lt (Nat.le_mul_of_pos_right _ (by positivity)) hpow
    have hclear : c.getLsbD 15 = false := (getLsbD_top_eq_false_iff c).mpr (by omega)
    have hnat : (c <<< 1).toNat = c.toNat * 2 := by
      rw [BitVec.toNat_shiftLeft, Nat.shiftLeft_eq, Nat.pow_one, Nat.mod_eq_of_lt hdouble]
    rw [crcShifts, crcShift_of_clear hclear, ih (by rwa [hnat]), ← BitVec.shiftLeft_add, Nat.add_comm]

/-- A byte in the place where `crcStep` puts it: bits 15 to 8. -/
def highByte (b : Byte) : Crc := b.setWidth 16 <<< 8

theorem crcStep_eq (c : Crc) (b : Byte) : crcStep c b = crcShifts 8 (c ^^^ highByte b) := rfl

theorem highByte_toNat (b : Byte) : (highByte b).toNat = b.toNat * 2 ^ 8 := by
  unfold highByte; bv_omega

theorem highByte_xor (x y : Byte) : highByte (x ^^^ y) = highByte x ^^^ highByte y := by
  simp only [highByte, BitVec.setWidth_xor, BitVec.shiftLeft_xor_distrib]

theorem highByte_injective : Function.Injective highByte := fun x y h =>
  BitVec.eq_of_toNat_eq (by have := congrArg BitVec.toNat h; simp only [highByte_toNat] at this; omega)

theorem crcStep_xor (c d : Crc) (x y : Byte) : crcStep (c ^^^ d) (x ^^^ y) = crcStep c x ^^^ crcStep d y := by
  simp only [crcStep_eq, highByte_xor, ← crcShifts_xor]
  congr 1
  ac_rfl

theorem crcStep_left_injective (b : Byte) : Function.Injective (crcStep · b) := fun _ _ h =>
  (BitVec.xor_left_inj _).mp (crcShifts_injective 8 h)

theorem crcStep_right_injective (c : Crc) : Function.Injective (crcStep c) := fun _ _ h =>
  highByte_injective ((BitVec.xor_right_inj _).mp (crcShifts_injective 8 h))

theorem crcStep_zero_zero : crcStep 0 0 = 0 := by decide

theorem foldl_crcStep_xor {s t : Bytes} (hlen : s.length = t.length) (c d : Crc) :
    (List.zipWith (· ^^^ ·) s t).foldl crcStep (c ^^^ d) = s.foldl crcStep c ^^^ t.foldl crcStep d := by
  induction s generalizing t c d with
  | nil => obtain rfl := List.length_eq_zero_iff.mp hlen.symm; rfl
  | cons x s ih =>
    obtain ⟨y, t, rfl⟩ := List.exists_cons_of_length_eq_add_one hlen.symm
    simp only [List.zipWith_cons_cons, List.foldl_cons, crcStep_xor]
    exact ih (by simpa using hlen) _ _

theorem foldl_crcStep_injective (s : Bytes) : Function.Injective (s.foldl crcStep) := by
  induction s with
  | nil => exact fun _ _ h => h
  | cons x s ih => exact fun _ _ h => crcStep_left_injective x (ih h)

/-! ## The laws of R207 -/

theorem crc16_zero_cons (s : Bytes) : crc16 (0x00 :: s) = crc16 s :=
  congrArg (s.foldl crcStep) crcStep_zero_zero

/-- The high byte of the register, fed to it, cancels, and the low byte moves to its place. -/
theorem crcStep_extract_high (c : Crc) : crcStep c (c.extractLsb' 8 8) = highByte (c.extractLsb' 0 8) := by
  have hcancel : c ^^^ highByte (c.extractLsb' 8 8) = (c.extractLsb' 0 8).setWidth 16 := by
    ext i hi
    by_cases hlow : i < 8
    · simp [highByte, hlow, BitVec.getLsbD_eq_getElem hi]
    · have hback : 8 + (i - 8) = i := by omega
      have hbyte : i - 8 < 8 := by omega
      simp [highByte, hlow, hback, hbyte, BitVec.getLsbD_eq_getElem hi]
  rw [crcStep_eq, hcancel, crcShifts_of_lt (by bv_omega), highByte]

theorem crcStep_highByte (b : Byte) : crcStep (highByte b) b = 0 := by
  rw [crcStep_eq, BitVec.xor_self]; decide

theorem crc16_append_crc (s : Bytes) :
    crc16 (s ++ [(crc16 s).extractLsb' 8 8, (crc16 s).extractLsb' 0 8]) = 0 := by
  rw [crc16, List.foldl_append, ← crc16]
  simp only [List.foldl_cons, List.foldl_nil]
  rw [crcStep_extract_high, crcStep_highByte]

theorem crc16_xor {s t : Bytes} (hlen : s.length = t.length) :
    crc16 (List.zipWith (· ^^^ ·) s t) = crc16 s ^^^ crc16 t :=
  foldl_crcStep_xor hlen 0 0

/-- Two strings that differ in one byte have different CRCs. -/
theorem crc16_append_cons_inj {u v : Bytes} {x y : Byte} (h : crc16 (u ++ x :: v) = crc16 (u ++ y :: v)) : x = y := by
  simp only [crc16, List.foldl_append, List.foldl_cons] at h
  exact crcStep_right_injective _ (foldl_crcStep_injective v h)

theorem xor_twoPow_ne (x : Byte) {k : Nat} (hk : k < 8) : x ^^^ BitVec.twoPow 8 k ≠ x := by
  intro h
  have hbit : (x ^^^ BitVec.twoPow 8 k).getLsbD k = x.getLsbD k := by rw [h]
  simp [hk] at hbit

theorem bodyOf_append_inj {p q tail : Bytes} (h : p ++ tail = bodyOf q) (hlen : tail.length = 4) :
    p = q ∧ tail = hex4 (crc16 q) :=
  List.append_inj' h (hlen.trans (hex4_length _).symm)

/-- No two bodies that verify differ in one byte: with equal payloads the checksums are equal, and payloads that differ in one
byte have different checksums. -/
theorem eq_of_bodyOf_append_cons {u v p q : Bytes} {x y : Byte} (hp : u ++ x :: v = bodyOf p)
    (hq : u ++ y :: v = bodyOf q) : x = y := by
  have hlen : u.length + (v.length + 1) = p.length + 4 := by simpa [bodyOf_length] using congrArg List.length hp
  rcases Nat.lt_or_ge u.length p.length with hlt | hge
  case inl =>
    obtain ⟨w, rfl⟩ : hex4 (crc16 p) <:+ v :=
      List.suffix_of_suffix_length_le ⟨p, hp.symm⟩ ⟨u ++ [x], by simp⟩ (by rw [hex4_length]; omega)
    obtain ⟨rfl, -⟩ := bodyOf_append_inj (p := u ++ x :: w) (by simpa using hp) (hex4_length _)
    obtain ⟨rfl, hcrc⟩ := bodyOf_append_inj (p := u ++ y :: w) (by simpa using hq) (hex4_length _)
    exact crc16_append_cons_inj (hex4_injective hcrc)
  case inr =>
    obtain ⟨w, rfl⟩ : p <+: u := List.prefix_of_prefix_length_le ⟨_, hp.symm⟩ (List.prefix_append u _) hge
    have htail : (w ++ y :: v).length = 4 := by
      simp only [List.length_append, List.length_cons] at hlen ⊢
      omega
    obtain ⟨rfl, -⟩ := bodyOf_append_inj (by simpa using hq) htail
    simpa using hp.trans hq.symm

/-- Settles O16: linearity and the injectivity of a byte step give each law. -/
theorem crcObeysItsLaws : Obligations.CrcObeysItsLaws := by
  refine ⟨crc16_zero_cons, crc16_append_crc, fun _ _ => crc16_xor, ?_, ?_⟩
  · intro u v x k hk h
    exact xor_twoPow_ne x hk (crc16_append_cons_inj h)
  · intro u v x k p hk hverify
    rw [Option.eq_none_iff_forall_not_mem]
    intro q hflipped
    exact xor_twoPow_ne x hk
      (eq_of_bodyOf_append_cons (verify_eq_some_iff.mp hflipped) (verify_eq_some_iff.mp hverify))

/-! ## The CRC16 command (R206) -/

theorem exec_crc16 (arg : Bytes) (s : State) : exec (.crc16 arg) s = execCrc16 arg s := rfl

theorem exec_crc16_of_free {s : State} (arg : Bytes) (hfree : s.pump = none) :
    exec (.crc16 arg) s = .next (if exceeds arg.length s.cfg.maxPayload then reply .illegal s
      else reply (.okCrc (crc16 arg) (hex4 (crc16 arg))) s) := by
  rw [exec_crc16, execCrc16, hostCall_of_free _ hfree]

/-- Settles O23: with no PUMP active the only question is whether the argument fits MAX_PAYLOAD. -/
theorem crc16CommandFollowsItsRule : Obligations.Crc16CommandFollowsItsRule := by
  intro arg s hfree
  rw [exec_crc16_of_free arg hfree]
  constructor
  · intro hfits
    rw [(exceeds_eq_false_iff _ _).mpr hfits]
    rfl
  · intro hlong
    rw [(exceeds_eq_true_iff _ _).mpr hlong]
    rfl

end Sys2Proof.Machine

/-! PROOFS. The command queue (spec R250 to R262): an instruction keeps the queue, enqueues its descriptor or resolves the
command in flight, and a step of the machine does the second and the third only under the event that R260 names; the order of
the frames (R259), the lock (R258) and the queue state (R260) follow. -/

namespace Sys2Proof.Machine

/-! ## The frames of a trace -/

@[simp] theorem sentFrames_append (a b : List Event) : sentFrames (a ++ b) = sentFrames a ++ sentFrames b :=
  List.filterMap_append ..

@[simp] theorem sentFrames_nil : sentFrames [] = [] := rfl
@[simp] theorem sentFrames_tx (f : Bytes) (out : List Event) : sentFrames (.tx f :: out) = f :: sentFrames out := rfl
@[simp] theorem sentFrames_result (o : PumpOutcome) (out : List Event) :
    sentFrames (.result o :: out) = sentFrames out := rfl

/-- A Completion is no frame. -/
@[simp] theorem sentFrames_completionEvents (st : CStatus) (inflight : Option Descriptor) :
    sentFrames (completionEvents st inflight) = [] := by
  cases inflight with
  | none => rfl
  | some d => cases hcb : d.cb <;> simp [completionEvents, hcb, sentFrames]

/-- A fault sends nothing: at most it ends a PUMP with a Result (R404). -/
@[simp] theorem sentFrames_raiseFault (c : FaultCause) (s : State) :
    sentFrames (raiseFault c s).out = sentFrames s.out := by
  rw [raiseFault_out]
  split <;> simp

/-! ## The moves of the queue -/

/-- Nothing is sent, and the command in flight and the FIFO are as they were. -/
structure QueueKept (s t : State) : Prop where
  inflight : t.inflight = s.inflight
  fifo : t.fifo = s.fifo
  sent : sentFrames t.out = sentFrames s.out

/-- `d` is enqueued (R252). -/
inductive QueueGrown (d : Descriptor) (s t : State) : Prop where
  /-- With nothing in flight `d` is sent at once. -/
  | written (idle : s.inflight = none) (inflight : t.inflight = some d) (fifo : t.fifo = s.fifo)
      (sent : sentFrames t.out = sentFrames s.out ++ [encodeFrame d.payload])
  /-- With a command in flight `d` waits at the tail. -/
  | queued (busy : s.inflight ≠ none) (inflight : t.inflight = s.inflight) (fifo : t.fifo = s.fifo ++ [d])
      (sent : sentFrames t.out = sentFrames s.out)

/-- The command in flight is resolved, and the head of the FIFO, if there is one, is sent (R256, R257). -/
structure QueueAdvanced (s t : State) : Prop where
  inflight : t.inflight = s.fifo.head?
  fifo : t.fifo = s.fifo.tail
  sent : sentFrames t.out = sentFrames s.out ++ sentFrames (nextWriteEvents s.fifo)

/-- What an instruction that takes `s` to `t` does to the queue. -/
inductive QueueMove (s t : State) : Instr → Prop where
  | reset : QueueMove s t .reset
  /-- FRAME sends its payload past the queue. -/
  | framed (p : Bytes) (inflight : t.inflight = s.inflight) : QueueMove s t (.frame p)
  | kept (i : Instr) (h : QueueKept s t) : QueueMove s t i
  | grown (i : Instr) (d : Descriptor) (hd : enqueuedBy s.cfg i = some d) (h : QueueGrown d s t) : QueueMove s t i
  | advanced (i : Instr) (hi : isResolving i = true) (h : QueueAdvanced s t) : QueueMove s t i

theorem raiseFault_keeps_queue (c : FaultCause) (s : State) : QueueKept s (raiseFault c s) :=
  ⟨raiseFault_inflight c s, raiseFault_fifo c s, sentFrames_raiseFault c s⟩

/-- A result returned to the host is none of the queue's. -/
theorem queueKept_reply {s t : State} (h : QueueKept s t) (r : HostResult) : QueueKept s (reply r t) := { h with }

theorem finish_keeps_queue (o : PumpOutcome) (s : State) : QueueKept s (finish o s) := ⟨rfl, rfl, by simp⟩

theorem resolvedState_advances_queue (q : Seq) (st : CStatus) (o : PumpOutcome) (s : State) :
    QueueAdvanced s (resolvedState q st o s) := ⟨rfl, rfl, by simp [resolvedState]⟩

theorem queueMove_of_effect {s t : State} {i : Instr} (he : Effect s i t) : QueueMove s t i := by
  cases he with
  | reset => exact .reset
  | framed p => exact .framed p rfl
  | written _ d _ _ _ hd _ hn => exact .grown _ d hd (.written hn rfl rfl (by simp))
  | queued _ d _ _ _ hd _ hn => exact .grown _ d hd (.queued hn rfl rfl rfl)
  | busyWritten _ _ _ hn => exact .grown _ _ rfl (.written hn rfl rfl (by simp))
  | busyQueued _ _ _ hn => exact .grown _ _ rfl (.queued hn rfl rfl (by simp))
  | initWritten _ hn => exact .grown _ _ rfl (.written hn rfl rfl (by simp))
  | initQueued _ hn => exact .grown _ _ rfl (.queued hn rfl rfl rfl)
  | resolved _ q st o _ hi => exact .advanced _ hi (resolvedState_advances_queue q st o s)
  | finished _ o => exact .kept _ (finish_keeps_queue o s)
  | hostOverflow => exact .kept _ (queueKept_reply (raiseFault_keeps_queue _ s) _)
  | tooLong => exact .kept _ (queueKept_reply (raiseFault_keeps_queue _ s) _)
  | seqOverflow => exact .kept _ (raiseFault_keeps_queue _ s)
  | busyOverflow => exact .kept _ (raiseFault_keeps_queue _ s)
  | initOverflow => exact .kept _ (raiseFault_keeps_queue _ s)
  | rxOverflow => exact .kept _ (raiseFault_keeps_queue _ s)
  | _ => exact .kept _ ⟨rfl, rfl, rfl⟩

/-- The moves do not read the schedule and the receive buffer. -/
theorem queueMove_of_taken {s t : State} {i : Instr} {sched : List Action} {rxbuf : Bytes}
    (h : QueueMove { s with sched := sched, rxbuf := rxbuf } t i) : QueueMove s t i := by
  cases h with
  | reset => exact .reset
  | framed p inflight => exact .framed p inflight
  | kept _ h => exact .kept _ { h with }
  | grown _ d hd h =>
    refine .grown _ d hd ?_
    cases h with
    | written idle inflight fifo sent => exact .written idle inflight fifo sent
    | queued busy inflight fifo sent => exact .queued busy inflight fifo sent
  | advanced _ hi h => exact .advanced _ hi { h with }

/-! ## The lock (R258) -/

/-- A move holds the lock, unless it is a reset or a resolution: what is enqueued while a command is in flight waits. -/
theorem queueMove_holds_lock {s t : State} {i : Instr} {d : Descriptor} (h : QueueMove s t i) (hreset : i ≠ .reset)
    (hi : isResolving i = false) (hd : s.inflight = some d) : t.inflight = some d := by
  cases h with
  | reset => exact absurd rfl hreset
  | framed _ inflight => exact inflight.trans hd
  | kept _ h => exact h.inflight.trans hd
  | grown _ d' _ h =>
    cases h with
    | written idle => simp [hd] at idle
    | queued _ inflight => exact inflight.trans hd
  | advanced _ hi' => simp [hi] at hi'

/-- Settles O52: PSTEP ends the PUMP, which is none of the queue's, or runs the instruction of a frame; that one and every
other instruction makes a move that holds the lock. -/
theorem lockIsHeldUntilAResolvingFrame : Obligations.LockIsHeldUntilAResolvingFrame := by
  intro i s t d hexec hd hkeeps
  by_cases hp : i = .pstep
  · subst hp
    rcases pstep_cases hexec with ⟨o, _, rfl⟩ | ⟨ctx, body, rest, _, hready, hextract, rfl, hreceived, heffect⟩
    · exact hd
    · have hi : isResolving (decodeBody body) = false := by
        by_contra hr
        exact hkeeps (.inr (.inr ⟨rfl, hready.2.1, hready.2.2, body, rest, hextract, by simpa using hr⟩))
      exact queueMove_holds_lock (queueMove_of_effect heffect) (ne_reset_of_isReceived hreceived) hi hd
  · have hi : isResolving i = false := by simpa using fun hr => hkeeps (.inl hr)
    exact queueMove_holds_lock (queueMove_of_effect (exec_effect hp hexec)) (fun hr => hkeeps (.inr (.inl hr))) hi hd

/-! ## The queue through a step of the machine (R259, R260) -/

/-- What a step of the machine does to the queue, each change under the event that calls for it. -/
inductive StepQueueMove (s t : State) : Prop where
  /-- A reset empties the queue and sends nothing. -/
  | reset (hnext : ResetIsNext s) (sent : sentFrames t.out = sentFrames s.out)
  | kept (h : QueueKept s t)
  | grown (d : Descriptor) (hnext : EnqueueIsNext d s) (h : QueueGrown d s t)
  | advanced (hnext : ResolvingStepIsNext s) (h : QueueAdvanced s t)

/-- No frame decodes to the outbound FRAME. -/
theorem ne_frame_of_isReceived {i : Instr} (h : IsReceived i) (p : Bytes) : i ≠ .frame p := by
  rintro rfl
  simp [IsReceived, isResolving] at h

/-- A step that runs `i` moves the queue as `i` does, where the step is the event that `i` calls for. -/
theorem stepQueueMove_of_queueMove {s t : State} {i : Instr} (h : QueueMove s t i) (hreset : i ≠ .reset)
    (hframe : ∀ p, i ≠ .frame p) (henqueue : ∀ d, enqueuedBy s.cfg i = some d → EnqueueIsNext d s)
    (hresolve : isResolving i = true → ResolvingStepIsNext s) : StepQueueMove s t := by
  cases h with
  | reset => exact absurd rfl hreset
  | framed p => exact absurd rfl (hframe p)
  | kept _ h => exact .kept h
  | grown _ d hd h => exact .grown d (henqueue d hd) h
  | advanced _ hi h => exact .advanced (hresolve hi) h

theorem stepQueueMove_of_step {s t : State} (hstep : step s = .next t) : StepQueueMove s t := by
  rcases step_effect hstep with ⟨hnext, _, rfl, _⟩ | rfl | ⟨_, _, r, rfl⟩ | ⟨_, _, o, rfl⟩ |
    ⟨i, a, rest, c, _, hreset, _, hframe, hi, hs, hc, hd, scheduled⟩ |
    ⟨ctx, body, rest, _, _, hpump, hready, hextract, rfl, hreceived, received⟩
  · exact .reset hnext rfl
  · exact .kept ⟨rfl, rfl, rfl⟩
  · exact .kept ⟨rfl, rfl, rfl⟩
  · exact .kept { finish_keeps_queue o { s with sched := s.sched.tail } with }
  · have hmove := queueMove_of_taken (rxbuf := s.rxbuf) (queueMove_of_effect scheduled)
    exact stepQueueMove_of_queueMove hmove hreset hframe (fun d => enqueueIsNext_of_decode hs hc hd)
      fun hr => absurd hr (by simp [hi])
  · have hmove := queueMove_of_taken (queueMove_of_effect received)
    exact stepQueueMove_of_queueMove hmove (ne_reset_of_isReceived hreceived) (ne_frame_of_isReceived hreceived)
      (fun d hd => .inr ⟨hpump, body, rest, hextract, hd⟩)
      fun hr => ⟨hpump, .inr (.inr ⟨rfl, hready.2.1, hready.2.2, body, rest, hextract, hr⟩)⟩

/-- The frames sent and the frames that wait, under an enqueue: the new frame comes last. -/
theorem queueGrown_frames {d : Descriptor} {s t : State} (h : QueueGrown d s t)
    (hqueue : s.inflight = none → s.fifo = []) :
    sentFrames t.out ++ waitingFrames t = sentFrames s.out ++ waitingFrames s ++ [encodeFrame d.payload] := by
  cases h with
  | written idle _ fifo sent => simp [waitingFrames, fifo, sent, hqueue idle]
  | queued _ _ fifo sent => simp [waitingFrames, fifo, sent]

/-- Under a resolution the first frame that waits becomes the last one sent. -/
theorem queueAdvanced_frames {s t : State} (h : QueueAdvanced s t) :
    sentFrames t.out ++ waitingFrames t = sentFrames s.out ++ waitingFrames s := by
  simp only [waitingFrames, h.fifo, h.sent]
  cases s.fifo with
  | nil => simp [nextWriteEvents]
  | cons d rest => simp [nextWriteEvents]

/-- Settles O54: only an enqueue adds a frame to those sent and those that wait, and it adds its own at the end. -/
theorem commandsReachTheWireInOrder : Obligations.CommandsReachTheWireInOrder := by
  intro s t hqueue hstep hnext
  cases stepQueueMove_of_step hstep with
  | reset hreset => exact absurd hreset hnext
  | kept h => exact ⟨[], by simp [waitingFrames, h.fifo, h.sent], .inl rfl⟩
  | grown d henqueue h => exact ⟨_, queueGrown_frames h hqueue, .inr ⟨d, henqueue, rfl⟩⟩
  | advanced _ h => exact ⟨[], by simpa using queueAdvanced_frames h, .inl rfl⟩

/-- Settles O53: an enqueue sends its frame only with nothing in flight, a resolution that of the head it puts in flight, and
no other step sends one. -/
theorem aStepWritesAtMostOneFrame : Obligations.AStepWritesAtMostOneFrame := by
  intro s t hstep
  cases stepQueueMove_of_step hstep with
  | reset _ sent => exact ⟨[], by simp [sent], .inl rfl⟩
  | kept h => exact ⟨[], by simp [h.sent], .inl rfl⟩
  | grown d _ h =>
    cases h with
    | written idle inflight _ sent => exact ⟨_, sent, .inr ⟨d, inflight, rfl, .inl idle⟩⟩
    | queued _ _ _ sent => exact ⟨[], by simp [sent], .inl rfl⟩
  | advanced hresolve h =>
    refine ⟨_, h.sent, ?_⟩
    cases hf : s.fifo with
    | nil => exact .inl rfl
    | cons d rest => exact .inr ⟨d, by simp [h.inflight, hf], rfl, .inr hresolve⟩

/-- The queue state is a function of the command in flight and the FIFO (R37). -/
theorem qstate_congr {s t : State} (hinflight : t.inflight = s.inflight) (hfifo : t.fifo = s.fifo) :
    qstate t = qstate s := by
  simp only [qstate, hinflight, hfifo]

/-- Settles O45: the moves that change the queue come with their events. -/
theorem queueStateChangesOnlyOnItsEvents : Obligations.QueueStateChangesOnlyOnItsEvents := by
  intro s t hstep hreset henqueue hresolve
  cases stepQueueMove_of_step hstep with
  | reset hnext => exact absurd hnext hreset
  | kept h => exact ⟨qstate_congr h.inflight h.fifo, h.inflight, h.fifo⟩
  | grown d hnext => exact absurd hnext (henqueue d)
  | advanced hnext => exact absurd hnext hresolve

end Sys2Proof.Machine

/-! PROOFS. The instructions that enqueue (spec R251 to R254): each is settled by the three cases of `enqueue`, behind its gate
and the answer it gives the host; the table of the queue state (R260) and the run of three commands (R261) follow from these
and from what a resolution leaves. -/

namespace Sys2Proof.Machine

/-! ## The three cases of `enqueue` (R252, R404) -/

section
variable {s : State}

theorem raiseFault_of_no_pump (c : FaultCause) (hp : s.pump = none) : raiseFault c s = { s with fault := some c } := by
  simp [raiseFault, hp]

theorem raiseFault_of_pump (c : FaultCause) (hp : s.pump ≠ none) :
    raiseFault c s = { s with fault := some c, pump := none, out := s.out ++ [.result .faulted] } := by
  simp [raiseFault_eq, Option.isSome_iff_ne_none, hp]

theorem enqueue_of_idle (d : Descriptor) (hn : s.inflight = none) : enqueue d s = .go (write d s) := by
  simpa [hn] using enqueue_cases d s

theorem enqueue_of_room (d : Descriptor) (hn : s.inflight ≠ none) (hroom : HasRoom s.fifo.length s.cfg.qDepth) :
    enqueue d s = .go { s with fifo := s.fifo ++ [d] } := by
  simpa [hn, hroom] using enqueue_cases d s

theorem enqueue_of_full (d : Descriptor) (hn : s.inflight ≠ none) (hroom : ¬HasRoom s.fifo.length s.cfg.qDepth) :
    enqueue d s = .stop (raiseFault .queueOverflow s) := by
  simpa [hn, hroom] using enqueue_cases d s

theorem enqueueAndReturn_of_go {d : Descriptor} {t : State} (h : enqueue d s = .go t) :
    enqueueAndReturn d s = reply .ok t := by
  simp [enqueueAndReturn, h]

theorem enqueueAndReturn_of_stop {d : Descriptor} {t : State} (h : enqueue d s = .stop t) :
    enqueueAndReturn d s = reply .faulted t := by
  simp [enqueueAndReturn, h]

/-- INIT_DESC with the characters of its payload, `000A`, written out (R254). -/
theorem initDescriptor_eq (p : Params) :
    initDescriptor p = { payload := [0x30, 0x30, 0x30, 0x41], kind := p.initKind, cb := false } := rfl

/-! ## INIT (R252, R254) -/

theorem exec_init_of_go {t : State} (hsend : canSend s = true) (h : enqueue (initDescriptor s.cfg) s = .go t) :
    exec .init s = .next t := by
  simp [exec, execInit, hsend, h]

theorem exec_init_of_stop {t : State} (hsend : canSend s = true) (h : enqueue (initDescriptor s.cfg) s = .stop t) :
    exec .init s = .next t := by
  simp [exec, execInit, hsend, h]

end

/-- Settles O36: where PWLINK can send, INIT is `enqueue` of INIT_DESC, and a fault it ends in ends an active PUMP. -/
theorem initIsEnqueued : Obligations.InitIsEnqueued := by
  intro s hfault hfatal
  have hsend := canSend_of_clear hfault hfatal
  refine ⟨fun hn => ?_, fun hn hroom => ?_, fun hn hfull hp => ?_, fun hn hfull hp => ?_⟩
  · exact exec_init_of_go hsend (enqueue_of_idle _ hn)
  · exact exec_init_of_go hsend (enqueue_of_room _ hn hroom)
  · rw [exec_init_of_stop hsend (enqueue_of_full _ hn hfull), raiseFault_of_no_pump _ hp]
  · rw [exec_init_of_stop hsend (enqueue_of_full _ hn hfull), raiseFault_of_pump _ hp]

/-! ## SUBMIT and CONNECT (R251, R253) -/

section
variable {s : State}

theorem gated_of_fault (body : State → State) (hfault : s.fault ≠ none) : gated body s = reply .faulted s := by
  simpa [hfault] using gated_cases body s

theorem gated_of_fatal (body : State → State) (hfault : s.fault = none) (hfatal : s.fatal = true) :
    gated body s = reply .fatal s := by
  simpa [hfault, hfatal] using gated_cases body s

theorem exec_connect_of_free (hp : s.pump = none) :
    exec .connect s = .next (gated (fun s => enqueueAndReturn (initDescriptor s.cfg) s) s) := hostCall_of_free _ hp

/-- SUBMIT past its gate. -/
def submitBody (kind : Kind) (cb : Bool) (payload : Bytes) (s : State) : State :=
  if exceeds payload.length s.cfg.maxPayload then reply .faulted (raiseFault .payloadTooLong s)
  else enqueueAndReturn (submitDescriptor kind cb payload) s

theorem exec_submit_of_free (kind : Kind) (cb : Bool) (payload : Bytes) (hp : s.pump = none) :
    exec (.submit kind cb payload) s = .next (gated (submitBody kind cb payload) s) := hostCall_of_free _ hp

theorem submitBody_of_long (kind : Kind) (cb : Bool) {payload : Bytes} (h : ¬Fits payload.length s.cfg.maxPayload) :
    submitBody kind cb payload s = reply .faulted (raiseFault .payloadTooLong s) :=
  if_pos ((exceeds_eq_true_iff _ _).mpr h)

theorem submitBody_of_fits (kind : Kind) (cb : Bool) {payload : Bytes} (h : Fits payload.length s.cfg.maxPayload) :
    submitBody kind cb payload s = enqueueAndReturn { payload := payload, kind := kind, cb := cb } s := by
  simp [submitBody, submitDescriptor, (exceeds_eq_false_iff _ _).mpr h]

/-- A SUBMIT that is not turned away is `enqueue` of its descriptor. -/
theorem exec_submit_of_fits (kind : Kind) (cb : Bool) {payload : Bytes} (h : HostReady s)
    (hfits : Fits payload.length s.cfg.maxPayload) :
    exec (.submit kind cb payload) s =
      .next (enqueueAndReturn { payload := payload, kind := kind, cb := cb } s) := by
  rw [exec_submit_of_free _ _ _ h.1, gated_of_ready _ h.2.1 h.2.2, submitBody_of_fits _ _ hfits]

/-- Past its gate CONNECT is `enqueue` of INIT_DESC. -/
theorem exec_connect_of_ready (h : HostReady s) :
    exec .connect s = .next (enqueueAndReturn (initDescriptor s.cfg) s) := by
  rw [exec_connect_of_free h.1, gated_of_ready _ h.2.1 h.2.2]

end

/-- Settles O18: the gate, then the payload's length, then `enqueue`. -/
theorem submitFollowsItsRule : Obligations.SubmitFollowsItsRule := by
  intro kind cb payload s hp
  have hgate := exec_submit_of_free kind cb payload hp
  refine ⟨fun hfault => ?_, fun hfault hfatal => ?_, fun hfault hfatal hlong => ?_, fun hfault hfatal hfits hn => ?_,
    fun hfault hfatal hfits hn hroom => ?_, fun hfault hfatal hfits hn hfull => ?_⟩
  · rw [hgate, gated_of_fault _ hfault, reply]
  · rw [hgate, gated_of_fatal _ hfault hfatal, reply]
  · rw [hgate, gated_of_ready _ hfault hfatal, submitBody_of_long _ _ hlong, raiseFault_of_no_pump _ hp, reply]
  · rw [exec_submit_of_fits _ _ ⟨hp, hfault, hfatal⟩ hfits, enqueueAndReturn_of_go (enqueue_of_idle _ hn)]
    rfl
  · rw [exec_submit_of_fits _ _ ⟨hp, hfault, hfatal⟩ hfits, enqueueAndReturn_of_go (enqueue_of_room _ hn hroom), reply]
  · rw [exec_submit_of_fits _ _ ⟨hp, hfault, hfatal⟩ hfits, enqueueAndReturn_of_stop (enqueue_of_full _ hn hfull),
      raiseFault_of_no_pump _ hp, reply]

/-- Settles O19: the gate, then `enqueue` of INIT_DESC. -/
theorem connectFollowsItsRule : Obligations.ConnectFollowsItsRule := by
  intro s hp
  refine ⟨fun hfault => ?_, fun hfault hfatal => ?_, fun hfault hfatal hn => ?_, fun hfault hfatal hn hroom => ?_,
    fun hfault hfatal hn hfull => ?_⟩
  · rw [exec_connect_of_free hp, gated_of_fault _ hfault, reply]
  · rw [exec_connect_of_free hp, gated_of_fatal _ hfault hfatal, reply]
  · rw [exec_connect_of_ready ⟨hp, hfault, hfatal⟩, enqueueAndReturn_of_go (enqueue_of_idle _ hn)]
    rfl
  · rw [exec_connect_of_ready ⟨hp, hfault, hfatal⟩, enqueueAndReturn_of_go (enqueue_of_room _ hn hroom),
      initDescriptor_eq, reply]
  · rw [exec_connect_of_ready ⟨hp, hfault, hfatal⟩, enqueueAndReturn_of_stop (enqueue_of_full _ hn hfull),
      raiseFault_of_no_pump _ hp, reply]

/-! ## The table of the queue state (R37, R260) -/

theorem qstate_eq_idle_iff (s : State) : qstate s = .idle ↔ s.inflight = none := by
  unfold qstate
  split <;> simp_all

theorem qstate_eq_writing_iff (s : State) : qstate s = .writing ↔ s.inflight ≠ none ∧ s.fifo = [] := by
  unfold qstate
  split <;> simp_all

theorem qstate_eq_waitingQueued_iff (s : State) : qstate s = .waitingQueued ↔ s.inflight ≠ none ∧ s.fifo ≠ [] := by
  unfold qstate
  split <;> simp_all

theorem onResolved_inflight (st : CStatus) (s : State) : (onResolved st s).inflight = s.fifo.head? := by
  rw [onResolved_eq]

theorem onResolved_fifo (st : CStatus) (s : State) : (onResolved st s).fifo = s.fifo.tail := by
  rw [onResolved_eq]

theorem onResolved_out (st : CStatus) (s : State) :
    (onResolved st s).out = s.out ++ (completionEvents st s.inflight ++ nextWriteEvents s.fifo) := by
  rw [onResolved_eq]

/-- A fault leaves the queue state (R260). -/
theorem qstate_raiseFault (c : FaultCause) (s : State) : qstate (raiseFault c s) = qstate s :=
  qstate_congr (raiseFault_inflight c s) (raiseFault_fifo c s)

/-- A resolution, by the number of waiting commands: with none the queue is IDLE after it. -/
theorem qstate_onResolved_nil (st : CStatus) {s : State} (hf : s.fifo = []) : qstate (onResolved st s) = .idle := by
  rw [qstate_eq_idle_iff, onResolved_inflight, hf, List.head?_nil]

theorem out_onResolved_nil (st : CStatus) {s : State} (hf : s.fifo = []) :
    (onResolved st s).out = s.out ++ completionEvents st s.inflight := by
  rw [onResolved_out, hf, nextWriteEvents, List.append_nil]

/-- With a command waiting, its frame is sent after the Completion. -/
theorem out_onResolved_cons (st : CStatus) {s : State} {d : Descriptor} {rest : List Descriptor}
    (hf : s.fifo = d :: rest) :
    (onResolved st s).out = s.out ++ completionEvents st s.inflight ++ [.tx (encodeFrame d.payload)] := by
  rw [onResolved_out, hf, nextWriteEvents, List.append_assoc]

theorem qstate_onResolved_one (st : CStatus) {s : State} (hf : s.fifo.length = 1) :
    qstate (onResolved st s) = .writing := by
  obtain ⟨d, hd⟩ := List.length_eq_one_iff.mp hf
  rw [qstate_eq_writing_iff, onResolved_inflight, onResolved_fifo, hd]
  simp

theorem qstate_onResolved_many (st : CStatus) {s : State} (hf : 2 ≤ s.fifo.length) :
    qstate (onResolved st s) = .waitingQueued := by
  rw [qstate_eq_waitingQueued_iff, onResolved_inflight, onResolved_fifo]
  match h : s.fifo, hf with
  | _ :: _ :: _, _ => simp

/-- Settles O44, row by row. -/
theorem queueStateFollowsItsTable : Obligations.QueueStateFollowsItsTable := by
  intro d st s hqueue
  simp only [qstate_eq_idle_iff s, ne_eq]
  refine ⟨fun hn => ?_, fun hn hroom => ?_, fun hn hfull => ?_, fun hw => ?_, fun _ => qstate_onResolved_one st,
    fun _ hf => ?_, fun _ h t hf => out_onResolved_cons st hf, fun hn => ?_, rfl, rfl⟩
  · exact ⟨_, enqueue_of_idle d hn, (qstate_eq_writing_iff _).mpr ⟨by simp, hqueue hn⟩, rfl⟩
  · exact ⟨_, enqueue_of_room d hn hroom, (qstate_eq_waitingQueued_iff _).mpr ⟨hn, by simp⟩, by simp, rfl⟩
  · refine ⟨_, enqueue_of_full d hn hfull, qstate_raiseFault _ s, raiseFault_fifo _ s, raiseFault_fault _ s, ?_⟩
    rw [raiseFault_out]
    cases s.pump <;> simp
  · obtain ⟨_, hf⟩ := (qstate_eq_writing_iff s).mp hw
    exact ⟨qstate_onResolved_nil st hf, out_onResolved_nil st hf⟩
  · refine ⟨qstate_onResolved_many st hf, ?_⟩
    rw [onResolved_fifo, List.length_tail]
    omega
  · refine ⟨qstate_onResolved_nil st (hqueue hn), ?_⟩
    rw [out_onResolved_nil st (hqueue hn), hn, completionEvents, List.append_nil]

/-! ## Three commands (R261) -/

/-- A SUBMIT with nothing in flight is sent. -/
theorem exec_submit_of_idle {d : Descriptor} {s : State} (h : HostReady s)
    (hfits : Fits d.payload.length s.cfg.maxPayload) (hn : s.inflight = none) :
    exec (.submit d.kind d.cb d.payload) s = .next (reply .ok (write d s)) := by
  rw [exec_submit_of_fits _ _ h hfits, enqueueAndReturn_of_go (enqueue_of_idle _ hn)]

/-- A SUBMIT with a command in flight and room in the FIFO waits at its tail. -/
theorem exec_submit_of_room {d : Descriptor} {s : State} (h : HostReady s)
    (hfits : Fits d.payload.length s.cfg.maxPayload) (hn : s.inflight ≠ none) (hroom : HasRoom s.fifo.length s.cfg.qDepth) :
    exec (.submit d.kind d.cb d.payload) s = .next (reply .ok { s with fifo := s.fifo ++ [d] }) := by
  rw [exec_submit_of_fits _ _ h hfits, enqueueAndReturn_of_go (enqueue_of_room _ hn hroom)]

/-- The six terminal rows run one meaning, each with its own opcode (R314). -/
theorem exec_terminal_eq {i : Instr} {q : Seq} {p : Bytes}
    (hi : i ∈ [Instr.respInit q p, .respPower q p, .respCircle q p, .respStatus q p, .respCalib q p, .respHistory q p]) :
    ∃ op, ∀ s, exec i s = receiveTerminal op q p s := by
  simp only [List.mem_cons, List.not_mem_nil, or_false] at hi
  rcases hi with rfl | rfl | rfl | rfl | rfl | rfl <;> exact ⟨_, fun _ => rfl⟩

/-- In a pump step a terminal response resolves the command in flight. -/
theorem receiveTerminal_of_ready (op : RespOp) (q : Seq) (p : Bytes) {ctx : PumpCtx} {s : State} (h : PumpReady ctx s) :
    receiveTerminal op q p s = .next (resolvedState q .ok (.response (respOpText op) q (kindOf q s) p) s) := by
  rw [receiveTerminal, inPumpStep_of_ready _ h, resolve_eq]

/-- Settles O46: the first SUBMIT is sent and the other two wait; the terminal response then advances the queue by one. -/
theorem threeCommandsAreWrittenOneByOne : Obligations.ThreeCommandsAreWrittenOneByOne := by
  intro d1 d2 d3 ctx q p s hready hn hfifo hroom hfits
  simp only [List.mem_cons, List.not_mem_nil, or_false, forall_eq_or_imp, forall_eq] at hfits
  obtain ⟨hfits1, hfits2, hfits3⟩ := hfits
  have hroom0 : HasRoom 0 s.cfg.qDepth := fun m hm => Nat.zero_lt_of_lt (hroom m hm)
  refine ⟨_, _, _, exec_submit_of_idle hready hfits1 hn, exec_submit_of_room hready hfits2 nofun ?_,
    exec_submit_of_room hready hfits3 nofun ?_, ?_, rfl, ?_, fun i hi => ?_⟩
  · simpa [hfifo] using hroom0
  · simpa [hfifo] using hroom
  · simp
  · simp [hfifo]
  · obtain ⟨op, hop⟩ := exec_terminal_eq hi
    refine ⟨_, (hop _).trans (receiveTerminal_of_ready op q p ⟨rfl, hready.2⟩), ?_, ?_, ?_⟩
    · simp [resolvedState, hfifo, nextWriteEvents]
    · simp [resolvedState, hfifo]
    · simp [resolvedState, hfifo]

end Sys2Proof.Machine

/-! PROOFS. The received classes (spec R310 to R317), each in a pump step that neither `fault` nor `fatal` ends: ACK by the
room in the table, BUSY by the three cases of `enqueue`, the resolving classes by what a resolution leaves, and the two
classes that only return an outcome. -/

namespace Sys2Proof.Machine

section
variable {ctx : PumpCtx} {s : State}

/-- A pump step runs inside an active PUMP, so a fault ends that PUMP with FAULTED (R404). -/
theorem raiseFault_of_ready (c : FaultCause) (h : PumpReady ctx s) :
    raiseFault c s = { s with fault := some c, pump := none, out := s.out ++ [.result .faulted] } :=
  raiseFault_of_pump c (by simp [h.1])

/-! ## ACK (R310) -/

/-- The condition under which ACK faults. -/
theorem ackOverflows_iff (q : Seq) (s : State) :
    ((seqLookup q s.seqtab).isNone && isFull s.seqtab.length s.cfg.seqDepth) = true ↔
      seqLookup q s.seqtab = none ∧ ¬HasRoom s.seqtab.length s.cfg.seqDepth := by
  rw [Bool.and_eq_true, Option.isNone_iff_eq_none, isFull_eq_true_iff]

theorem exec_ack_of_room (q : Seq) (h : PumpReady ctx s)
    (hroom : seqLookup q s.seqtab ≠ none ∨ HasRoom s.seqtab.length s.cfg.seqDepth) :
    exec (.ack q) s =
      .next { s with
        seqtab := seqInsert q { kind := s.inflight.map (·.kind), receivedOk := true } s.seqtab
        pump := some { ctx with peek := some q } } := by
  have hno := (ackOverflows_iff q s).not.mpr (by tauto)
  rw [exec, execAck, inPumpStep_of_ready _ h, if_neg hno]

theorem exec_ack_of_full (q : Seq) (h : PumpReady ctx s) (hnew : seqLookup q s.seqtab = none)
    (hfull : ¬HasRoom s.seqtab.length s.cfg.seqDepth) :
    exec (.ack q) s = .next (raiseFault .seqOverflow s) := by
  rw [exec, execAck, inPumpStep_of_ready _ h, if_pos ((ackOverflows_iff q s).mpr ⟨hnew, hfull⟩)]

/-! ## BUSY (R315) -/

theorem exec_busy_of_go (q : Seq) {t : State} (h : PumpReady ctx s)
    (henqueue : enqueue (initDescriptor s.cfg) s = .go t) : exec (.busy q) s = .next (finish (.reinit q) t) := by
  simp [exec, execBusy, inPumpStep_of_ready _ h, henqueue]

theorem exec_busy_of_stop (q : Seq) {t : State} (h : PumpReady ctx s)
    (henqueue : enqueue (initDescriptor s.cfg) s = .stop t) : exec (.busy q) s = .next t := by
  simp [exec, execBusy, inPumpStep_of_ready _ h, henqueue]

/-! ## The resolving classes (R311 to R314) -/

theorem kindOf_of_entry {q : Seq} {e : SeqEntry} (h : seqLookup q s.seqtab = some e) : kindOf q s = e.kind := by
  simp [kindOf, h]

theorem kindOf_of_absent {q : Seq} (h : seqLookup q s.seqtab = none) : kindOf q s = s.inflight.map (·.kind) := by
  simp [kindOf, h]

theorem exec_error_of_ready (q : Seq) (code : Bytes) (h : PumpReady ctx s) :
    exec (.error q code) s = .next (resolvedState q .error (.error q code s.inflight (kindOf q s)) s) := by
  rw [exec, execError, inPumpStep_of_ready _ h, resolve_eq]

theorem receiveSwitch_of_ready (q : Seq) (st : SwitchState) (addr : Bytes) (h : PumpReady ctx s) :
    receiveSwitch q st addr s = .next (resolvedState q .ok (.switched q st addr (kindOf q s)) s) := by
  rw [receiveSwitch, inPumpStep_of_ready _ h, resolve_eq]

/-! ## The classes that only return an outcome (R316, R317) -/

theorem exec_unrecognized_of_ready (p : Bytes) (h : PumpReady ctx s) :
    exec (.unrecognized p) s = .next (finish (.noData p) s) := inPumpStep_of_ready _ h

theorem exec_crcError_of_ready (body : Bytes) (h : PumpReady ctx s) :
    exec (.crcError body) s = .next (finish (.crcError body) s) := inPumpStep_of_ready _ h

theorem decodeBody_of_not_verified {body : Bytes} (h : verify body = none) : decodeBody body = .crcError body := by
  rw [decodeBody, h]

end

/-- Settles O27: the entry is written where the key is known or the table has room, and the table's laws say what it then
holds; a full table faults. -/
theorem ackRecordsItsSequenceNumber : Obligations.AckRecordsItsSequenceNumber := by
  intro q ctx s hready
  refine ⟨fun hroom => ⟨_, exec_ack_of_room q hready hroom, ?_, fun k hk => ?_, seqInsert_wf q _⟩, fun hnew hfull => ?_⟩
  · rw [seqLookup_seqInsert, if_pos rfl]
  · rw [seqLookup_seqInsert, if_neg hk.symm]
  · rw [exec_ack_of_full q hready hnew hfull, raiseFault_of_ready _ hready]

/-- Settles O28, by the three cases of `enqueue` on INIT_DESC. -/
theorem busyEnqueuesInit : Obligations.BusyEnqueuesInit := by
  intro q ctx s hready
  refine ⟨fun hn => ?_, fun hn hroom => ?_, fun hn hfull => ?_⟩
  · rw [exec_busy_of_go q hready (enqueue_of_idle _ hn), initDescriptor_eq]
    simp [finish, emit, write, transmit]
  · exact exec_busy_of_go q hready (enqueue_of_room _ hn hroom)
  · rw [exec_busy_of_stop q hready (enqueue_of_full _ hn hfull), raiseFault_of_ready _ hready]

/-- Settles O29: the table's entry decides, and without one the command in flight. -/
theorem kindLookupReadsTheTableFirst : Obligations.KindLookupReadsTheTableFirst := by
  intro q s
  refine ⟨fun e => kindOf_of_entry, fun d habsent hd => ?_, fun habsent hn => ?_⟩
  · rw [kindOf_of_absent habsent, hd, Option.map_some]
  · rw [kindOf_of_absent habsent, hn, Option.map_none]

/-- Settles O30: ERROR is a resolution with status ERROR, whose outcome reads the command in flight and its kind before the
release. -/
theorem errorResolvesWithTheCommandInFlight : Obligations.ErrorResolvesWithTheCommandInFlight := by
  intro q code ctx s hready
  rw [exec_error_of_ready q code hready, resolvedState]

/-- Settles O31: the two switch rows run one meaning, each with its own state. -/
theorem switchAcknowledgementsResolve : Obligations.SwitchAcknowledgementsResolve := fun q addr _ _ hready =>
  ⟨receiveSwitch_of_ready q .on addr hready, receiveSwitch_of_ready q .off addr hready⟩

/-- Settles O32: the six terminal rows run one meaning, each with its own opcode. -/
theorem terminalResponsesResolve : Obligations.TerminalResponsesResolve := fun q p _ _ hready =>
  ⟨receiveTerminal_of_ready .init q p hready, receiveTerminal_of_ready .power q p hready,
    receiveTerminal_of_ready .circle q p hready, receiveTerminal_of_ready .status q p hready,
    receiveTerminal_of_ready .calib q p hready, receiveTerminal_of_ready .history q p hready⟩

/-- Settles O34: the whole effect is the end of the PUMP. -/
theorem unrecognizedGivesNoData : Obligations.UnrecognizedGivesNoData := fun p _ _ hready =>
  exec_unrecognized_of_ready p hready

/-- Settles O35: the checksum is read before the class, and the whole effect is the end of the PUMP. -/
theorem checksumMismatchGivesCrcError : Obligations.ChecksumMismatchGivesCrcError :=
  ⟨fun _ => decodeBody_of_not_verified, fun body _ _ hready => exec_crcError_of_ready body hready⟩

end Sys2Proof.Machine

/-! PROOFS. The host's commands and the machine's step (spec R43, R44, R350 to R353, R360 to R364): a step fetches, decodes and
runs; a host command runs where no PUMP is active and is blocked elsewhere; the gate answers before a gated body; the words of
STATUS and RXCOUNT by their fields. -/

namespace Sys2Proof.Machine

/-! ## The machine's step (R350, R351) -/

theorem step_of_scheduled {a : Action} {rest : List Action} {s : State} (h : s.sched = a :: rest) :
    step s = runAction a { s with sched := rest } := by
  rw [step, fetchAction_cons h]

theorem step_of_nothing_scheduled {s : State} (h : s.sched = []) :
    step s = if pstepEnabled s then exec .pstep s else .next s := by
  rw [step, fetchAction_nil h]

theorem runAction_of_decoded {a : Action} {c : Code} {i : Instr} (hc : actionCode a = some c) (hd : decode c = .ok i)
    (s : State) : runAction a s = exec i s := by
  simp only [runAction, hc, hd]

theorem runAction_of_rejected {a : Action} {c : Code} {r : Reject} (hc : actionCode a = some c)
    (hd : decode c = .reject r) (s : State) : runAction a s = issueIllegal s := by
  simp only [runAction, hc, hd]

theorem step_of_resetPin {rest : List Action} {s : State} (h : s.sched = .resetPin :: rest) :
    step s = .next (resetBlock { s with sched := rest }) := step_of_scheduled h

/-- Settles O43: what is scheduled runs by its code, the pin by its reset, and with nothing scheduled the pump engine's own
condition decides. -/
theorem stepRunsTheDecodedInstruction : Obligations.StepRunsTheDecodedInstruction := by
  intro s
  refine ⟨fun a rest c i hs hc hd => ?_, fun a rest c r hs hc hd => ?_, fun _ => step_of_resetPin, fun hs hp => ?_,
    fun hs hp => ?_⟩
  · rw [step_of_scheduled hs, runAction_of_decoded hc hd]
  · rw [step_of_scheduled hs, runAction_of_rejected hc hd]
  · rw [step_of_nothing_scheduled hs, if_pos hp]
  · rw [step_of_nothing_scheduled hs, if_neg (by simp [hp])]

/-! ## The seven host commands (R352, R353, R364) -/

/-- The host's commands, each with any operands. -/
theorem exec_eq_hostCall {i : Instr} {kind : Kind} {cb tmo : Bool} {bytes : Bytes}
    (hi : i ∈ [Instr.reset, .connect, .submit kind cb bytes, .pump tmo, .status, .rxcount, .crc16 bytes]) :
    ∃ body, ∀ s, exec i s = hostCall body s := by
  simp only [List.mem_cons, List.not_mem_nil, or_false] at hi
  rcases hi with rfl | rfl | rfl | rfl | rfl | rfl | rfl <;> exact ⟨_, fun _ => rfl⟩

/-- Settles O26: a host command asks for a step that an active PUMP does not give; the pin asks for none. -/
theorem hostHasNoStepDuringAPump : Obligations.HostHasNoStepDuringAPump := by
  intro s hp
  refine ⟨fun kind cb tmo bytes i hi => ?_, fun rest hs => ⟨_, step_of_resetPin hs, rfl, rfl⟩⟩
  obtain ⟨body, he⟩ := exec_eq_hostCall hi
  rw [he, hostCall_of_pump _ hp]

section
variable {s : State}

theorem exec_reset_of_free (hp : s.pump = none) : exec .reset s = .next (reply .ok (resetBlock s)) :=
  hostCall_of_free (fun s => reply .ok (resetBlock s)) hp

theorem exec_pump_of_free (tmo : Bool) (hp : s.pump = none) :
    exec (.pump tmo) s = .next (gated (fun s => { s with pump := some { tmo := tmo, peek := none } }) s) :=
  hostCall_of_free _ hp

theorem exec_status_of_free (hp : s.pump = none) : exec .status s = .next (reply (.okWord (statusWord s)) s) :=
  hostCall_of_free _ hp

theorem exec_rxcount_of_free (hp : s.pump = none) : exec .rxcount s = .next (reply (.okWord (rxcountWord s)) s) :=
  hostCall_of_free _ hp

/-- SUBMIT, CONNECT and PUMP are each a body behind the one gate. -/
theorem exec_gated_of_free {i : Instr} {kind : Kind} {cb tmo : Bool} {bytes : Bytes} (hp : s.pump = none)
    (hi : i ∈ [Instr.submit kind cb bytes, .connect, .pump tmo]) : ∃ body, exec i s = .next (gated body s) := by
  simp only [List.mem_cons, List.not_mem_nil, or_false] at hi
  rcases hi with rfl | rfl | rfl
  · exact ⟨_, exec_submit_of_free kind cb bytes hp⟩
  · exact ⟨_, exec_connect_of_free hp⟩
  · exact ⟨_, exec_pump_of_free tmo hp⟩

end

/-- Settles O20: PUMP's body opens the context, behind the gate. -/
theorem pumpCommandFollowsItsRule : Obligations.PumpCommandFollowsItsRule := by
  intro tmo s hp
  rw [exec_pump_of_free tmo hp]
  refine ⟨fun hfault => ?_, fun hfault hfatal => ?_, fun hfault hfatal => ?_⟩
  · rw [gated_of_fault _ hfault, reply]
  · rw [gated_of_fatal _ hfault hfatal, reply]
  · rw [gated_of_ready _ hfault hfatal]

/-- Settles O25: the gate answers before a gated body runs; each of the other four returns a result of its own. -/
theorem faultAndFatalGateThreeCommands : Obligations.FaultAndFatalGateThreeCommands := by
  intro s kind cb tmo bytes hp
  refine ⟨fun hfault i hi => ?_, fun hfault hfatal i hi => ?_, fun i hi => ?_⟩
  · obtain ⟨body, he⟩ := exec_gated_of_free hp hi
    rw [he, gated_of_fault _ hfault, reply]
  · obtain ⟨body, he⟩ := exec_gated_of_free hp hi
    rw [he, gated_of_fatal _ hfault hfatal, reply]
  · simp only [List.mem_cons, List.not_mem_nil, or_false] at hi
    rcases hi with rfl | rfl | rfl | rfl
    · exact ⟨_, _, exec_status_of_free hp, rfl, nofun, nofun⟩
    · exact ⟨_, _, exec_rxcount_of_free hp, rfl, nofun, nofun⟩
    · rw [exec_crc16_of_free bytes hp]
      split <;> exact ⟨_, _, rfl, rfl, nofun, nofun⟩
    · exact ⟨_, _, exec_reset_of_free hp, rfl, nofun, nofun⟩

/-! ## The words of STATUS and RXCOUNT (R43, R44, R360, R361) -/

/-- Bit strings put together in the layout of R43 are read back at its positions. -/
theorem statusLayout_fields (reserved seqCount fifoCount : BitVec 8) (cause : BitVec 3) (fault fatal inflight : Bool)
    (queue : BitVec 2) {w : BitVec (8 + 8 + 8 + 3 + 1 + 1 + 1 + 2)}
    (hw : w = reserved ++ seqCount ++ fifoCount ++ cause ++ BitVec.ofBool fault ++ BitVec.ofBool fatal ++
      BitVec.ofBool inflight ++ queue) :
    w.extractLsb' 0 2 = queue ∧ w.getLsbD 2 = inflight ∧ w.getLsbD 3 = fatal ∧ w.getLsbD 4 = fault ∧
      w.extractLsb' 5 3 = cause ∧ w.extractLsb' 8 8 = fifoCount ∧ w.extractLsb' 16 8 = seqCount ∧
      w.extractLsb' 24 8 = reserved := by
  subst hw
  simp [-Nat.reduceAdd, -BitVec.getLsbD_eq_getElem, BitVec.getLsbD_append, BitVec.extractLsb'_append_eq_of_le,
    BitVec.extractLsb'_append_eq_right]

theorem statusWord_fields (s : State) :
    (statusWord s).extractLsb' 0 2 = qstateBits (qstate s) ∧ (statusWord s).getLsbD 2 = s.inflight.isSome ∧
      (statusWord s).getLsbD 3 = s.fatal ∧ (statusWord s).getLsbD 4 = s.fault.isSome ∧
      (statusWord s).extractLsb' 5 3 = faultCauseBits s.fault ∧
      (statusWord s).extractLsb' 8 8 = count8 s.fifo.length ∧
      (statusWord s).extractLsb' 16 8 = count8 s.seqtab.length ∧ (statusWord s).extractLsb' 24 8 = 0 :=
  statusLayout_fields _ _ _ _ _ _ _ _ rfl

theorem qstateBits_qstate (s : State) :
    qstateBits (qstate s) = if s.inflight = none then 0 else if s.fifo = [] then 1 else 2 := by
  unfold qstate
  split <;> simp [*, qstateBits]

theorem count8_toNat (n : Nat) : (count8 n).toNat = min n 255 := by
  rw [count8, BitVec.toNat_ofNat]
  omega

theorem rxcountWord_toNat (s : State) : (rxcountWord s).toNat = min s.rxbuf.length (2 ^ 32 - 1) := by
  rw [rxcountWord, BitVec.toNat_ofNat]
  omega

/-- Settles O21: the word's layout, and what each of its fields holds. -/
theorem statusReturnsTheControlState : Obligations.StatusReturnsTheControlState := by
  intro s hp
  obtain ⟨hqueue, hinflight, hfatal, hfault, hcause, hfifo, hseq, hreserved⟩ := statusWord_fields s
  refine ⟨statusWord s, exec_status_of_free hp, hqueue.trans (qstateBits_qstate s), hinflight, hfatal, hfault, ?_, ?_, ?_,
    hreserved⟩
  · rw [hcause]
    rcases s.fault with _ | (_ | _ | _ | _) <;> rfl
  · rw [hfifo, count8_toNat]
  · rw [hseq, count8_toNat]

/-- Settles O22: RXCOUNT returns the word of R44, which saturates. -/
theorem rxcountReturnsTheBufferedBytes : Obligations.RxcountReturnsTheBufferedBytes := fun s hp =>
  ⟨rxcountWord s, exec_rxcount_of_free hp, rxcountWord_toNat s⟩

end Sys2Proof.Machine

/-! PROOFS. The transport and the pump engine (spec R350, R354 to R358, R365, R366): PSTEP by its five cases; what each effect
does to an active PUMP, so that a Result is given exactly where a PUMP ends; and a pump step on a frame either ends the PUMP or
takes an ACK out of the buffer, so that a quiet PUMP finishes by induction on the buffer. -/

namespace Sys2Proof.Machine

/-! ## The transport (R365, R366) -/

section
variable {s : State}

theorem exec_rxDeliver_of_stopped (b : Byte) (h : s.fault ≠ none ∨ s.fatal = true) : exec (.rxDeliver b) s = .next s :=
  if_pos (by simpa [Option.isSome_iff_ne_none] using h)

theorem exec_rxDeliver_of_open (b : Byte) (hfault : s.fault = none) (hfatal : s.fatal = false) :
    exec (.rxDeliver b) s = if isFull s.rxbuf.length s.cfg.rxDepth then .next (raiseFault .rxOverflow s)
      else .next { s with rxbuf := s.rxbuf ++ [b] } := if_neg (by simp [hfault, hfatal])

theorem exec_rxDeliver_of_room (b : Byte) (hfault : s.fault = none) (hfatal : s.fatal = false)
    (hroom : HasRoom s.rxbuf.length s.cfg.rxDepth) :
    exec (.rxDeliver b) s = .next { s with rxbuf := s.rxbuf ++ [b] } := by
  rw [exec_rxDeliver_of_open b hfault hfatal, (isFull_eq_false_iff _ _).mpr hroom]
  rfl

theorem exec_rxDeliver_of_full (b : Byte) (hfault : s.fault = none) (hfatal : s.fatal = false)
    (hfull : ¬HasRoom s.rxbuf.length s.cfg.rxDepth) : exec (.rxDeliver b) s = .next (raiseFault .rxOverflow s) := by
  rw [exec_rxDeliver_of_open b hfault hfatal, if_pos ((isFull_eq_true_iff _ _).mpr hfull)]

end

/-- Settles O38: a stopped block loses the byte, and the buffer's room decides the rest. -/
theorem rxDeliverFollowsItsRule : Obligations.RxDeliverFollowsItsRule := by
  intro b s
  refine ⟨exec_rxDeliver_of_stopped b, exec_rxDeliver_of_room b, fun hfault hfatal hfull hp => ?_,
    fun hfault hfatal hfull hp => ?_⟩
  · rw [exec_rxDeliver_of_full b hfault hfatal hfull, raiseFault_of_no_pump _ hp]
  · rw [exec_rxDeliver_of_full b hfault hfatal hfull, raiseFault_of_pump _ hp]

/-- Settles O39: the one condition is that the link has not failed before. -/
theorem linkFailSetsFatalOnly : Obligations.LinkFailSetsFatalOnly := by
  refine fun s => ⟨fun hfatal => ?_, fun hfatal => ?_⟩
  · rw [exec, execLinkFail, if_neg (by simp [hfatal])]
  · rw [exec, execLinkFail, if_pos hfatal]

/-! ## TIMEOUT (R350, R355) -/

theorem timeoutEnabled_iff (s : State) :
    timeoutEnabled s = true ↔
      s.pump = some { tmo := true, peek := none } ∧ extractOne s.rxbuf = none ∧ s.fatal = false ∧ s.fault = none := by
  unfold timeoutEnabled
  rcases s.pump with _ | ⟨tmo, peek⟩ <;> simp [and_assoc]

/-- Settles O42: R350's condition decides. -/
theorem timeoutFinishesWithNone : Obligations.TimeoutFinishesWithNone := by
  refine fun s => ⟨fun h => ?_, fun h => ?_⟩
  · rw [exec, execTimeout, if_pos ((timeoutEnabled_iff s).mpr h)]
    rfl
  · rw [exec, execTimeout, if_neg ((timeoutEnabled_iff s).not.mpr h)]

/-! ## PSTEP (R350, R354, R405) -/

section
variable {ctx : PumpCtx} {s : State}

theorem exec_pstep_eq (s : State) : exec .pstep s = execPstep s := rfl

theorem exec_pstep_of_no_pump (hp : s.pump = none) : exec .pstep s = .fault .pumpNotEnabled := by
  simp [exec_pstep_eq, execPstep, hp]

theorem exec_pstep_of_fault (hp : s.pump = some ctx) (hfault : s.fault ≠ none) :
    exec .pstep s = .next (finish .faulted s) := by
  simp [exec_pstep_eq, execPstep, hp, Option.isSome_iff_ne_none, hfault]

theorem exec_pstep_of_fatal (hp : s.pump = some ctx) (hfault : s.fault = none) (hfatal : s.fatal = true) :
    exec .pstep s = .next (finish .fatal s) := by
  simp [exec_pstep_eq, execPstep, hp, hfault, hfatal]

theorem exec_pstep_of_frame {body rest : Bytes} (h : PumpReady ctx s) (hextract : extractOne s.rxbuf = some (body, rest)) :
    exec .pstep s = exec (decodeBody body) { s with rxbuf := rest } := by
  obtain ⟨hp, hfault, hfatal⟩ := h
  simp [exec_pstep_eq, execPstep, hp, hfault, hfatal, hextract, process_eq_exec]

theorem exec_pstep_of_peek {q : Seq} (h : PumpReady ctx s) (hextract : extractOne s.rxbuf = none)
    (hpeek : ctx.peek = some q) : exec .pstep s = .next (finish (.ack q) s) := by
  obtain ⟨hp, hfault, hfatal⟩ := h
  simp [exec_pstep_eq, execPstep, hp, hfault, hfatal, hextract, hpeek]

theorem exec_pstep_of_nothing (h : PumpReady ctx s) (hextract : extractOne s.rxbuf = none) (hpeek : ctx.peek = none) :
    exec .pstep s = .fault .pumpNotEnabled := by
  obtain ⟨hp, hfault, hfatal⟩ := h
  simp [exec_pstep_eq, execPstep, hp, hfault, hfatal, hextract, hpeek]

end

/-- Settles O40, case by case. -/
theorem pumpStepFollowsItsRule : Obligations.PumpStepFollowsItsRule := fun _ _ hp =>
  ⟨exec_pstep_of_fault hp, exec_pstep_of_fatal hp,
    fun hfault hfatal _ _ => exec_pstep_of_frame ⟨hp, hfault, hfatal⟩,
    fun hfault hfatal hextract _ => exec_pstep_of_peek ⟨hp, hfault, hfatal⟩ hextract,
    fun hfault hfatal => exec_pstep_of_nothing ⟨hp, hfault, hfatal⟩⟩

/-! ## The Result of a PUMP (R356) -/

/-- `t` has no PUMP, and the last event it adds to the trace of `s` is a Result. -/
def EndsWithResult (s t : State) : Prop := t.pump = none ∧ ∃ evs o, t.out = s.out ++ evs ++ [.result o]

/-- What `t` adds to the trace of `s` holds no Result. -/
def AddsNoResult (s t : State) : Prop := ∃ evs, t.out = s.out ++ evs ∧ ∀ o, Event.result o ∉ evs

/-- From `s` to `t` an active PUMP ends with its Result, or none ends and no Result is given. -/
def PumpMove (s t : State) : Prop :=
  (s.pump ≠ none ∧ EndsWithResult s t) ∨ ((s.pump = none ∨ t.pump ≠ none) ∧ AddsNoResult s t)

section
variable {s t : State}

theorem finish_endsWithResult {evs : List Event} (h : t.out = s.out ++ evs) (o : PumpOutcome) :
    EndsWithResult s (finish o t) := ⟨rfl, evs, o, by simp [h]⟩

theorem finish_self_endsWithResult (o : PumpOutcome) : EndsWithResult s (finish o s) :=
  finish_endsWithResult (List.append_nil _).symm o

theorem raiseFault_endsWithResult (c : FaultCause) (hp : s.pump ≠ none) : EndsWithResult s (raiseFault c s) := by
  rw [raiseFault_of_pump c hp]
  exact ⟨rfl, [], .faulted, by simp⟩

theorem resolvedState_endsWithResult (q : Seq) (st : CStatus) (o : PumpOutcome) :
    EndsWithResult s (resolvedState q st o s) :=
  ⟨rfl, completionEvents st s.inflight ++ nextWriteEvents s.fifo, o, by simp [resolvedState]⟩

theorem addsNoResult_of_out_eq (h : t.out = s.out) : AddsNoResult s t := ⟨[], by simp [h], nofun⟩

theorem addsNoResult_of_tx {frame : Bytes} (h : t.out = s.out ++ [.tx frame]) : AddsNoResult s t :=
  ⟨_, h, by simp⟩

theorem pumpMove_of_kept (hp : t.pump = s.pump) (hout : AddsNoResult s t) : PumpMove s t :=
  .inr ⟨by rw [hp]; exact em _, hout⟩

theorem raiseFault_pumpMove (c : FaultCause) (s : State) : PumpMove s (raiseFault c s) := by
  by_cases hp : s.pump = none
  · rw [raiseFault_of_no_pump c hp]
    exact pumpMove_of_kept rfl (addsNoResult_of_out_eq rfl)
  · exact .inl ⟨hp, raiseFault_endsWithResult c hp⟩

theorem pumpReady_ne_none {ctx : PumpCtx} (h : PumpReady ctx s) : s.pump ≠ none := by simp [h.1]

theorem pumpMove_of_effect {i : Instr} (he : Effect s i t) : PumpMove s t := by
  cases he with
  | reset hp => exact .inr ⟨.inl hp, addsNoResult_of_out_eq rfl⟩
  | opened => exact .inr ⟨.inr nofun, addsNoResult_of_out_eq rfl⟩
  | acked => exact .inr ⟨.inr nofun, addsNoResult_of_out_eq rfl⟩
  | written => exact pumpMove_of_kept rfl (addsNoResult_of_tx rfl)
  | initWritten => exact pumpMove_of_kept rfl (addsNoResult_of_tx rfl)
  | framed => exact pumpMove_of_kept rfl (addsNoResult_of_tx rfl)
  | hostOverflow => exact (raiseFault_pumpMove _ s :)
  | tooLong => exact (raiseFault_pumpMove _ s :)
  | seqOverflow => exact raiseFault_pumpMove _ s
  | busyOverflow => exact raiseFault_pumpMove _ s
  | initOverflow => exact raiseFault_pumpMove _ s
  | rxOverflow => exact raiseFault_pumpMove _ s
  | busyWritten _ _ h => exact .inl ⟨pumpReady_ne_none h, finish_endsWithResult (write_out _ s) _⟩
  | busyQueued _ _ h => exact .inl ⟨pumpReady_ne_none h, finish_self_endsWithResult _⟩
  | resolved _ q st o _ _ h => exact .inl ⟨pumpReady_ne_none h, resolvedState_endsWithResult q st o⟩
  | finished _ o _ _ hp => exact .inl ⟨hp, finish_self_endsWithResult o⟩
  | _ => exact pumpMove_of_kept rfl (addsNoResult_of_out_eq rfl)

theorem pumpMove_outside_reset (hn : ¬ResetIsNext s) (hmove : PumpMove s t) :
    (¬ResetIsNext s ∧ s.pump ≠ none ∧ EndsWithResult s t) ∨
    ((s.pump = none ∨ t.pump ≠ none ∨ ResetIsNext s) ∧ AddsNoResult s t) := by
  rcases hmove with ⟨hp, hend⟩ | ⟨hkept, hquiet⟩
  · exact .inl ⟨hn, hp, hend⟩
  · exact .inr ⟨hkept.imp_right .inl, hquiet⟩

/-- A step that is no reset and ends a PUMP gives its Result; every other step gives none (R356, R451). -/
theorem pump_cases_of_step (hstep : step s = .next t) :
    (¬ResetIsNext s ∧ s.pump ≠ none ∧ EndsWithResult s t) ∨
    ((s.pump = none ∨ t.pump ≠ none ∨ ResetIsNext s) ∧ AddsNoResult s t) := by
  rcases step_effect hstep with ⟨hreset, _, rfl, _⟩ | rfl | ⟨_, hn, r, rfl⟩ | ⟨⟨hp, _⟩, hn, o, rfl⟩ |
    ⟨_, _, _, _, hn, _, _, _, _, _, _, _, scheduled⟩ | ⟨_, _, _, _, hn, _, _, _, _, _, received⟩
  · exact .inr ⟨.inr (.inr hreset), addsNoResult_of_out_eq rfl⟩
  · exact .inr ⟨(em _).imp_right .inl, addsNoResult_of_out_eq rfl⟩
  · exact pumpMove_outside_reset hn (pumpMove_of_kept rfl (addsNoResult_of_out_eq rfl))
  · exact .inl ⟨hn, hp, finish_self_endsWithResult o⟩
  · exact pumpMove_outside_reset hn (pumpMove_of_effect scheduled :)
  · exact pumpMove_outside_reset hn (pumpMove_of_effect received :)

end

/-- Settles O58: the two cases of a step, each of which excludes the other's hypothesis. -/
theorem aPumpGivesItsResultWhenItEnds : Obligations.APumpGivesItsResultWhenItEnds := by
  intro s t hstep
  rcases pump_cases_of_step hstep with ⟨hn, hp, hended, hresult⟩ | ⟨hquiet, evs, hout, hnone⟩
  · exact ⟨fun _ => hresult, fun h => absurd h (by simp [hn, hp, hended])⟩
  · refine ⟨fun ⟨hp, hended, hn⟩ => absurd hquiet (by simp [hn, hp, hended]), fun _ => ?_⟩
    rwa [hout, List.drop_left]

/-! ## A pump step makes progress (R350, R354, R457) -/

/-- PSTEP has something to do in `s`, whose PUMP has the context `ctx` (R350). -/
def PumpHasWork (ctx : PumpCtx) (s : State) : Prop :=
  extractOne s.rxbuf ≠ none ∨ ctx.peek ≠ none ∨ s.fatal = true ∨ s.fault ≠ none

/-- `t` is `s` after an ACK: the buffer is `rest`, the table has the entry, and the PUMP peeks (R310). -/
def PeeksBehindAck (s : State) (rest : Bytes) (t : State) : Prop :=
  ∃ tab tmo q, t = { s with rxbuf := rest, seqtab := tab, pump := some { tmo := tmo, peek := some q } }

/-- An extraction takes at least the delimiters out of the buffer (R156). -/
theorem extractOne_rest_length_lt {b body rest : Bytes} (h : extractOne b = some (body, rest)) :
    rest.length < b.length := by
  obtain ⟨before, rfl⟩ := framed_of_extractOne h
  simp [framed, preamble]
  omega

section
variable {ctx : PumpCtx} {s : State}

/-- In a pump step each resolving class resolves the command in flight. -/
theorem exec_resolving_of_ready {i : Instr} (h : PumpReady ctx s) (hi : isResolving i = true) :
    ∃ q st o, exec i s = .next (resolvedState q st o s) := by
  cases i with
  | error q code => exact ⟨_, _, _, exec_error_of_ready q code h⟩
  | switchOn q addr => exact ⟨_, _, _, receiveSwitch_of_ready q .on addr h⟩
  | switchOff q addr => exact ⟨_, _, _, receiveSwitch_of_ready q .off addr h⟩
  | respInit q p => exact ⟨_, _, _, receiveTerminal_of_ready .init q p h⟩
  | respPower q p => exact ⟨_, _, _, receiveTerminal_of_ready .power q p h⟩
  | respCircle q p => exact ⟨_, _, _, receiveTerminal_of_ready .circle q p h⟩
  | respStatus q p => exact ⟨_, _, _, receiveTerminal_of_ready .status q p h⟩
  | respCalib q p => exact ⟨_, _, _, receiveTerminal_of_ready .calib q p h⟩
  | respHistory q p => exact ⟨_, _, _, receiveTerminal_of_ready .history q p h⟩
  | _ => cases hi

/-- In a pump step an ACK is recorded, or it ends the PUMP with the fault of a full table. -/
theorem exec_ack_progress (q : Seq) (h : PumpReady ctx s) :
    ∃ t, exec (.ack q) s = .next t ∧ (EndsWithResult s t ∨ PeeksBehindAck s s.rxbuf t) := by
  by_cases hroom : seqLookup q s.seqtab ≠ none ∨ HasRoom s.seqtab.length s.cfg.seqDepth
  · exact ⟨_, exec_ack_of_room q h hroom, .inr ⟨_, _, _, rfl⟩⟩
  · obtain ⟨hnew, hfull⟩ := not_or.mp hroom
    exact ⟨_, exec_ack_of_full q h (not_not.mp hnew) hfull, .inl (raiseFault_endsWithResult _ (pumpReady_ne_none h))⟩

/-- In a pump step a BUSY ends the PUMP, whether or not INIT finds room. -/
theorem exec_busy_progress (q : Seq) (h : PumpReady ctx s) :
    ∃ t, exec (.busy q) s = .next t ∧ EndsWithResult s t := by
  rcases enqueue_cases (initDescriptor s.cfg) s with ⟨_, he⟩ | ⟨_, _, he⟩ | ⟨_, _, he⟩
  · exact ⟨_, exec_busy_of_go q h he, finish_endsWithResult (write_out _ s) _⟩
  · exact ⟨_, exec_busy_of_go q h he, finish_self_endsWithResult _⟩
  · exact ⟨_, exec_busy_of_stop q h he, raiseFault_endsWithResult _ (pumpReady_ne_none h)⟩

/-- In a pump step every received class answers: it ends the PUMP, or it is an ACK the PUMP goes on from. -/
theorem exec_received_progress {i : Instr} (h : PumpReady ctx s) (hi : IsReceived i) :
    ∃ t, exec i s = .next t ∧ (EndsWithResult s t ∨ PeeksBehindAck s s.rxbuf t) := by
  rcases hi with ⟨q, rfl⟩ | ⟨q, rfl⟩ | hresolving | ⟨p, rfl⟩ | ⟨body, rfl⟩
  · exact exec_ack_progress q h
  · obtain ⟨t, he, hend⟩ := exec_busy_progress q h
    exact ⟨t, he, .inl hend⟩
  · obtain ⟨q, st, o, he⟩ := exec_resolving_of_ready h hresolving
    exact ⟨_, he, .inl (resolvedState_endsWithResult q st o)⟩
  · exact ⟨_, exec_unrecognized_of_ready p h, .inl (finish_self_endsWithResult _)⟩
  · exact ⟨_, exec_crcError_of_ready body h, .inl (finish_self_endsWithResult _)⟩

/-- Where there is work, PSTEP ends the PUMP or takes an ACK out of the buffer. -/
theorem exec_pstep_progress (hp : s.pump = some ctx) (hwork : PumpHasWork ctx s) :
    ∃ t, exec .pstep s = .next t ∧
      (EndsWithResult s t ∨ ∃ rest, rest.length < s.rxbuf.length ∧ PeeksBehindAck s rest t) := by
  by_cases hfault : s.fault = none
  case neg => exact ⟨_, exec_pstep_of_fault hp hfault, .inl (finish_self_endsWithResult _)⟩
  cases hfatal : s.fatal with
  | true => exact ⟨_, exec_pstep_of_fatal hp hfault hfatal, .inl (finish_self_endsWithResult _)⟩
  | false =>
    cases hextract : extractOne s.rxbuf with
    | some frame =>
      obtain ⟨body, rest⟩ := frame
      have hready : PumpReady ctx { s with rxbuf := rest } := ⟨hp, hfault, hfatal⟩
      obtain ⟨t, he, hprogress⟩ := exec_received_progress hready (decodeBody_isReceived body)
      exact ⟨t, (exec_pstep_of_frame ⟨hp, hfault, hfatal⟩ hextract).trans he,
        hprogress.imp_right fun hpeeks => ⟨rest, extractOne_rest_length_lt hextract, hpeeks⟩⟩
    | none =>
      cases hpeek : ctx.peek with
      | some q => exact ⟨_, exec_pstep_of_peek ⟨hp, hfault, hfatal⟩ hextract hpeek, .inl (finish_self_endsWithResult _)⟩
      | none => simp [PumpHasWork, hextract, hpeek, hfatal, hfault] at hwork

theorem pumpHasWork_of_exec_pstep {t : State} (hp : s.pump = some ctx) (h : exec .pstep s = .next t) :
    PumpHasWork ctx s := by
  by_contra hnone
  simp only [PumpHasWork, not_or, not_not, Bool.not_eq_true] at hnone
  obtain ⟨hextract, hpeek, hfatal, hfault⟩ := hnone
  rw [exec_pstep_of_nothing ⟨hp, hfault, hfatal⟩ hextract hpeek] at h
  cases h

end

/-- Settles O41: without a PUMP, or without work, PSTEP stops; with both it makes progress. -/
theorem pumpStepRunsExactlyWhereEnabled : Obligations.PumpStepRunsExactlyWhereEnabled := by
  intro s
  constructor
  · rintro ⟨t, h⟩
    cases hp : s.pump with
    | none =>
      rw [exec_pstep_of_no_pump hp] at h
      cases h
    | some ctx => exact ⟨ctx, rfl, pumpHasWork_of_exec_pstep hp h⟩
  · rintro ⟨ctx, hp, hwork⟩
    obtain ⟨t, he, _⟩ := exec_pstep_progress hp hwork
    exact ⟨t, he⟩

theorem pstepEnabled_iff {ctx : PumpCtx} {s : State} (hp : s.pump = some ctx) :
    pstepEnabled s = true ↔ PumpHasWork ctx s := by
  simp [pstepEnabled, hp, PumpHasWork, Option.isSome_iff_ne_none, or_assoc]

theorem run_succ_of_next {s t : State} (h : step s = .next t) (n : Nat) : run (n + 1) s = run n t := by
  rw [run, h]

/-- Settles O60 by induction on the buffer: each pump step ends the PUMP, or takes an ACK out of the buffer and leaves the
PUMP its peek to work on. -/
theorem anEnabledPumpFinishes : Obligations.AnEnabledPumpFinishes := by
  intro s ctx hsched hp hwork
  induction hlen : s.rxbuf.length using Nat.strong_induction_on generalizing s ctx with
  | _ len ih =>
    subst hlen
    obtain ⟨t, he, hprogress⟩ := exec_pstep_progress hp hwork
    have hstep : step s = .next t := by
      rw [step_of_nothing_scheduled hsched, if_pos ((pstepEnabled_iff hp).mpr hwork), he]
    rcases hprogress with ⟨hended, evs, o, hout⟩ | ⟨rest, hlt, tab, tmo, q, ht⟩
    · exact ⟨1, t, evs, o, by omega, run_succ_of_next hstep 0, hended, hout⟩
    · obtain ⟨n, u, evs, o, hn, hrun, hended, hout⟩ :=
        ih rest.length hlt t { tmo := tmo, peek := some q } (by simp [ht, hsched]) (by simp [ht])
          (.inr (.inl nofun)) (by simp [ht])
      refine ⟨n + 1, u, evs, o, by omega, (run_succ_of_next hstep n).trans hrun, hended, ?_⟩
      simpa [ht] using hout

end Sys2Proof.Machine

/-! PROOFS. The exceptions (spec R402, R404): with `fatal` set no instruction sends a frame, and an instruction that sets a
fault stops in place, where the capacity that the cause names is used up. -/

namespace Sys2Proof.Machine

/-! ## Transport loss (R402) -/

theorem fatal_eq_false_of_canSend {s : State} (h : canSend s = true) : s.fatal = false := by
  simp only [canSend, Bool.and_eq_true, Bool.not_eq_true'] at h
  exact h.2

/-- Whatever sends a frame asks for `fatal` to be clear: the gate of the host's commands, a pump step, an outbound row. -/
theorem effect_sends_nothing_of_fatal {s t : State} {i : Instr} (he : Effect s i t) (hfatal : s.fatal = true) :
    sentFrames t.out = sentFrames s.out := by
  have hset : s.fatal ≠ false := by simp [hfatal]
  cases he with
  | written _ _ _ _ hready => exact absurd hready.2.2 hset
  | busyWritten _ _ hready => exact absurd hready.2.2 hset
  | resolved _ _ _ _ _ _ hready => exact absurd hready.2.2 hset
  | initWritten hsend => exact absurd (fatal_eq_false_of_canSend hsend) hset
  | framed _ hsend => exact absurd (fatal_eq_false_of_canSend hsend) hset
  | _ => simp

theorem step_sends_nothing_of_fatal {s t : State} (hstep : step s = .next t) (hfatal : s.fatal = true) :
    sentFrames t.out = sentFrames s.out := by
  rcases step_effect hstep with ⟨_, _, rfl, _⟩ | rfl | ⟨_, _, _, rfl⟩ | ⟨_, _, o, rfl⟩ |
    ⟨_, _, _, _, _, _, _, _, _, _, _, _, scheduled⟩ | ⟨_, _, _, _, _, _, hready, _⟩
  · rfl
  · rfl
  · rfl
  · exact (finish_keeps_queue o _).sent
  · exact (effect_sends_nothing_of_fatal scheduled hfatal :)
  · exact absurd hready.2.2 (by simp [hfatal])

/-- Settles O55: LINK_FAIL and PSTEP by their rules, the three commands by their gate; outside a reset `fatal` is sticky, and
while it is set no step sends. -/
theorem transportLossIsFinal : Obligations.TransportLossIsFinal := by
  refine ⟨fun s hclear => ⟨_, (linkFailSetsFatalOnly s).1 hclear, rfl⟩, fun s t hfatal hstep hnext => ?_,
    fun s hfatal hfault hp => ?_, fun s kind cb tmo bytes hfatal hfault hp => ?_⟩
  · exact ⟨(stickyBitsLastUntilReset s t hstep hnext).1 hfatal, step_sends_nothing_of_fatal hstep hfatal⟩
  · obtain ⟨ctx, hctx⟩ := Option.ne_none_iff_exists'.mp hp
    exact (pumpStepFollowsItsRule ctx s hctx).2.1 hfault hfatal
  · exact (faultAndFatalGateThreeCommands s kind cb tmo bytes hp).2.1 hfault hfatal

/-! ## Capacity faults (R404) -/

/-- What holds when a fault stopped `s` in `t`: no PUMP is active, the lock, the FIFO and the table are as they were, and the
FIFO overflowed only behind a command in flight. -/
structure StopsInPlace (s t : State) : Prop where
  pump : t.pump = none
  inflight : t.inflight = s.inflight
  fifo : t.fifo = s.fifo
  seqtab : t.seqtab = s.seqtab
  busy : t.fault = some .queueOverflow → s.inflight ≠ none

theorem raiseFault_stopsInPlace (c : FaultCause) {s : State} (hbusy : c = .queueOverflow → s.inflight ≠ none) :
    StopsInPlace s (raiseFault c s) where
  pump := by rw [raiseFault_eq]
  inflight := raiseFault_inflight c s
  fifo := raiseFault_fifo c s
  seqtab := raiseFault_seqtab c s
  busy := by simpa using hbusy

theorem reply_stopsInPlace {s t : State} (h : StopsInPlace s t) (r : HostResult) : StopsInPlace s (reply r t) := { h with }

/-- An instruction that sets a fault stops in place. -/
theorem stopsInPlace_of_effect {s t : State} {i : Instr} (he : Effect s i t) (hf : s.fault = none)
    (ht : t.fault ≠ none) : StopsInPlace s t := by
  cases he with
  | hostOverflow _ _ _ _ hn => exact reply_stopsInPlace (raiseFault_stopsInPlace _ fun _ => hn) _
  | tooLong => exact reply_stopsInPlace (raiseFault_stopsInPlace .payloadTooLong nofun) _
  | seqOverflow => exact raiseFault_stopsInPlace _ nofun
  | busyOverflow _ _ _ hn => exact raiseFault_stopsInPlace _ fun _ => hn
  | initOverflow _ hn => exact raiseFault_stopsInPlace _ fun _ => hn
  | rxOverflow => exact raiseFault_stopsInPlace _ nofun
  | reset => exact absurd rfl ht
  | resolved => exact absurd hf ht
  | _ => exact absurd hf (by simpa using ht)

/-- An instruction that sets the fault `c` stops in place, and the capacity that `c` names gives out. -/
theorem fault_of_effect {s t : State} {i : Instr} {c : FaultCause} (he : Effect s i t) (hf : s.fault = none)
    (ht : t.fault = some c) : StopsInPlace s t ∧ CapacityExceeded i s c := by
  refine ⟨stopsInPlace_of_effect he hf (by simp [ht]), ?_⟩
  rcases fault_cases_of_effect he hf with hclear | ⟨c', hc', hexceeded⟩
  · simp [ht] at hclear
  · obtain rfl : c = c' := Option.some.inj (ht.symm.trans hc')
    exact hexceeded

/-- A capacity that gives out for fewer items gives out for more. -/
theorem not_hasRoom_of_le {m n : Nat} {cap : Capacity} (hle : m ≤ n) (h : ¬HasRoom m cap) : ¬HasRoom n cap :=
  fun hroom => h fun k hk => hle.trans_lt (hroom k hk)

/-- A capacity that gives out with the schedule and some received bytes taken away gave out before. -/
theorem capacityExceeded_of_taken {s : State} {i : Instr} {c : FaultCause} {sched : List Action} {rxbuf : Bytes}
    (hle : rxbuf.length ≤ s.rxbuf.length) (h : CapacityExceeded i { s with sched := sched, rxbuf := rxbuf } c) :
    CapacityExceeded i s c := by
  cases c with
  | rxOverflow => exact not_hasRoom_of_le hle h
  | queueOverflow => exact h
  | seqOverflow => exact h
  | payloadTooLong => exact h

/-- A scheduled SUBMIT is a command word with its payload at the data port (R110). -/
theorem eq_host_of_decode_submit {a : Action} {code : Code} {kind : Kind} {cb : Bool} {payload : Bytes}
    (hc : actionCode a = some code) (hd : decode code = .ok (.submit kind cb payload)) : ∃ w, a = .host w payload := by
  cases a with
  | host w arg =>
    obtain rfl : Code.host w arg = code := Option.some.inj hc
    obtain ⟨r, hmem, -⟩ := fits_of_decodeHost hd
    obtain ⟨-, -, -, rfl⟩ : r = rowSubmit ∧ kind = kindField w ∧ cb = cbField w ∧ payload = arg := by
      simpa [hostTable] using hmem
    exact ⟨w, rfl⟩
  | resetPin => simp [actionCode] at hc
  | _ =>
    simp only [actionCode, Option.some.injEq] at hc
    subst hc
    simp [decode] at hd

/-- No frame decodes to the host's SUBMIT. -/
theorem ne_submit_of_isReceived {i : Instr} (h : IsReceived i) (kind : Kind) (cb : Bool) (payload : Bytes) :
    i ≠ .submit kind cb payload := by
  rintro rfl
  simp [IsReceived, isResolving] at h

/-- A step that sets the fault `c` runs an instruction that stops in place where the capacity gives out; if that is a SUBMIT,
the host issued it. -/
theorem fault_of_step {s t : State} {c : FaultCause} (hstep : step s = .next t) (hf : s.fault = none)
    (ht : t.fault = some c) :
    ∃ i, StopsInPlace s t ∧ CapacityExceeded i s c ∧
      ∀ kind cb payload, i = .submit kind cb payload → ∃ w rest, s.sched = .host w payload :: rest := by
  have hset : t.fault ≠ none := by simp [ht]
  rcases step_effect hstep with ⟨_, _, rfl, _⟩ | rfl | ⟨_, _, _, rfl⟩ | ⟨_, _, _, rfl⟩ |
    ⟨i, a, rest, code, _, _, _, _, _, hs, hc, hd, scheduled⟩ |
    ⟨_, _, _, i, _, _, _, hextract, _, hreceived, received⟩
  · exact absurd rfl hset
  · exact absurd hf hset
  · exact absurd hf hset
  · exact absurd hf hset
  · obtain ⟨hstops, hexceeded⟩ := fault_of_effect scheduled hf ht
    refine ⟨i, { hstops with }, capacityExceeded_of_taken le_rfl hexceeded, ?_⟩
    rintro kind cb payload rfl
    obtain ⟨w, rfl⟩ := eq_host_of_decode_submit hc hd
    exact ⟨w, rest, hs⟩
  · obtain ⟨hstops, hexceeded⟩ := fault_of_effect received hf ht
    exact ⟨i, { hstops with }, capacityExceeded_of_taken (extractOne_rest_length_le hextract) hexceeded,
      fun kind cb payload hi => absurd hi (ne_submit_of_isReceived hreceived kind cb payload)⟩

/-- What fits a capacity without room for more fills it. -/
theorem eq_some_of_full {n : Nat} {cap : Capacity} (hfits : Fits n cap) (hfull : ¬HasRoom n cap) : cap = some n := by
  cases cap with
  | none => exact absurd (hasRoom_inf n) hfull
  | some m =>
    have hle : n ≤ m := hfits m rfl
    have hge : m ≤ n := by simpa [HasRoom] using hfull
    rw [hle.antisymm hge]

theorem exists_lt_of_not_fits {n : Nat} {cap : Capacity} (h : ¬Fits n cap) : ∃ m, cap = some m ∧ m < n := by
  simpa [Fits] using h

/-- Settles O56: the step stops in place where a capacity gives out, and under the invariant the storage of that capacity is
exactly full. -/
theorem faultsOccurOnlyAtTheirCapacities : Obligations.FaultsOccurOnlyAtTheirCapacities := by
  intro s t c hinv hf hstep ht
  obtain ⟨i, hstops, hexceeded, hissued⟩ := fault_of_step hstep hf ht
  refine ⟨hstops.pump, hstops.inflight, hstops.fifo, hstops.seqtab, ?_⟩
  cases c with
  | rxOverflow => exact eq_some_of_full hinv.rxbufFits hexceeded
  | queueOverflow => exact ⟨hstops.busy ht, eq_some_of_full hinv.fifoFits hexceeded⟩
  | seqOverflow => exact eq_some_of_full hinv.seqtabFits hexceeded
  | payloadTooLong =>
    obtain ⟨kind, cb, payload, hi, hlong⟩ := hexceeded
    obtain ⟨w, rest, hs⟩ := hissued kind cb payload hi
    obtain ⟨m, hm, hlt⟩ := exists_lt_of_not_fits hlong
    exact ⟨w, payload, rest, m, hs, hm, hlt⟩

end Sys2Proof.Machine

/-! PROOFS. Reset (spec R450, R451): what the flags of a state read once its elements are empty and its sticky bits clear, and
the state that the command and the pin leave. -/

namespace Sys2Proof.Machine

/-! ## The words of a cleared state (R37, R43, R44) -/

section
variable {t : State}

/-- With no fault and no count to show, every field of the layout of R43 is zero. -/
theorem statusWord_of_cleared (hseqtab : t.seqtab = []) (hfifo : t.fifo = []) (hinflight : t.inflight = none)
    (hfatal : t.fatal = false) (hfault : t.fault = none) : statusWord t = 0 := by
  have hidle : qstate t = .idle := (qstate_eq_idle_iff t).mpr hinflight
  rw [statusWord, awaiting, hidle, hseqtab, hfifo, hinflight, hfatal, hfault]
  rfl

theorem rxcountWord_of_empty (hrxbuf : t.rxbuf = []) : rxcountWord t = 0 :=
  BitVec.eq_of_toNat_eq (by simp [rxcountWord_toNat, hrxbuf])

/-- What the host reads off a cleared state: IDLE, STATUS 0 and RXCOUNT 0. -/
theorem flags_of_cleared (hrxbuf : t.rxbuf = []) (hfifo : t.fifo = []) (hinflight : t.inflight = none)
    (hseqtab : t.seqtab = []) (hfatal : t.fatal = false) (hfault : t.fault = none) :
    qstate t = .idle ∧ statusWord t = 0 ∧ rxcountWord t = 0 :=
  ⟨(qstate_eq_idle_iff t).mpr hinflight, statusWord_of_cleared hseqtab hfifo hinflight hfatal hfault,
    rxcountWord_of_empty hrxbuf⟩

end

/-! ## The command and the pin (R450, R451) -/

/-- Settles O17: RESET, free to run, leaves the cleared state and its OK; the pin leaves the cleared state, whatever runs. -/
theorem resetRestoresEveryElement : Obligations.ResetRestoresEveryElement := by
  refine ⟨fun s hp => ?command, fun s rest hs => ?pin⟩
  case command =>
    exact ⟨reply .ok (resetBlock s), exec_reset_of_free hp, rfl, flags_of_cleared rfl rfl rfl rfl rfl rfl⟩
  case pin =>
    exact ⟨resetBlock { s with sched := rest }, step_of_resetPin hs, rfl, flags_of_cleared rfl rfl rfl rfl rfl rfl⟩

end Sys2Proof.Machine


/-! PROOFS. The model's own parameters and schedule (log entries 1 and 2): no instruction writes either field, and the entry
that a step takes is gone before anything runs. -/

namespace Sys2Proof.Machine

/-- No instruction writes the parameters or the schedule: each update of the state leaves both as they are. -/
theorem effect_keeps_cfg_and_sched {s t : State} {i : Instr} (he : Effect s i t) : t.cfg = s.cfg ∧ t.sched = s.sched := by
  cases he with
  | resolved => exact ⟨rfl, rfl⟩
  | _ => simp

/-- Settles O59: an effect runs on the state without the scheduled entry, with or without an extracted frame, and keeps its
parameters and schedule; so do the reset, the wait, the turned-away word and the end of a PUMP. -/
theorem stepKeepsParametersAndTakesOneEntry : Obligations.StepKeepsParametersAndTakesOneEntry := by
  intro s t hstep
  rcases step_effect hstep with ⟨_, _, rfl, _⟩ | rfl | ⟨_, _, _, rfl⟩ | ⟨_, _, _, rfl⟩ |
    ⟨_, _, _, _, _, _, _, _, _, _, _, _, scheduled⟩ | ⟨_, _, _, _, _, _, _, _, _, _, received⟩
  · exact ⟨resetBlock_cfg s, rfl⟩
  · exact ⟨rfl, rfl⟩
  · exact ⟨reply_cfg _ _, reply_sched _ _⟩
  · exact ⟨finish_cfg _ _, finish_sched _ _⟩
  · exact (effect_keeps_cfg_and_sched scheduled :)
  · exact (effect_keeps_cfg_and_sched received :)

end Sys2Proof.Machine
